-- ==== Sys2Proof/Word.lean ====
section
/-! DEFINITION. The block's word types (00_scope.md R7): bytes, 16-bit registers, 32-bit words. -/

namespace Sys2Proof

/-- A byte is 8 bits (R7). -/
abbrev Byte := BitVec 8

/-- A 16-bit register value (duty, RPM, temperature). -/
abbrev Half := BitVec 16

/-- A 32-bit word: a queue record, a dispatch word, a clock value. -/
abbrev Word := BitVec 32

end Sys2Proof
end

