-- ==== Sys2Proof/Config.lean ====
section
/-! DEFINITION. Implementation parameters (00_scope.md R5, R6), the input ports of a step (30_encoding.md R98, R99) and the
free environment that drives them (R8, R9). -/

namespace Sys2Proof

/-! ## The parameters -/

/-- The block's configuration (R5, R6, R46): every literal of R6's table as a field, fixed before the first step, changed by
nothing, not even reset. `Config.valid` holds each field to R6's constraint, so that a proof says which values it relies on. -/
structure Config where
  /-- RX_START_BYTE, fixed. -/
  rxStartByte : Byte
  /-- TX_START_BYTE, fixed. -/
  txStartByte : Byte
  /-- RX_LEN_MIN, fixed. -/
  rxLenMin : Nat
  /-- RX_LEN_MAX, fixed. -/
  rxLenMax : Nat
  /-- RX_BUF_BYTES = 2 + RX_LEN_MAX (D3). -/
  rxBufBytes : Nat
  /-- QUEUE_CAP, fixed. -/
  queueCap : Nat
  /-- MAX_FANS, fixed. -/
  maxFans : Nat
  /-- FAN_COUNT, OPEN, at most MAX_FANS. -/
  fanCount : Nat
  /-- TEMP_COUNT, OPEN, at most 4. -/
  tempCount : Nat
  /-- DEVICE_ID, OPEN, at most 255. -/
  deviceId : Nat
  /-- TIMER_TOP. -/
  timerTop : Nat
  /-- CLK_HZ; beside R6's own constraint only R250's tick rate reads it (`stepsPerMs`). -/
  clkHz : Nat
  /-- STALL_TIMEOUT_MS. -/
  stallTimeoutMs : Nat
  /-- SPACING_MS. -/
  spacingMs : Nat
  /-- RPM_WINDOW_MS. -/
  rpmWindowMs : Nat
  /-- RPM_SCALE, fixed. -/
  rpmScale : Nat
  /-- CYCLES_PER_REV. -/
  cyclesPerRev : Nat
  /-- INIT_DUTY_PERCENT. -/
  initDutyPercent : Nat
  /-- TX_BUF_BYTES. -/
  txBufBytes : Nat
  /-- PROBE_PENDING_MAX. -/
  probePendingMax : Nat
  /-- CRC_POLY_REFLECTED, fixed (R131). -/
  crcPoly : Byte
  /-- CRC_INIT, fixed (R130). PRESUMED by the spec itself (GK1, log 14). -/
  crcInit : Byte
deriving DecidableEq, Repr, Inhabited

/-- TX_PAYLOAD_MAX = TX_BUF_BYTES - 3 (R6, derived there). -/
def Config.txPayloadMax (c : Config) : Nat := c.txBufBytes - 3

/-- The values R6 gives this hardware, with the test-vector choice 2, 2, 7 for the three OPEN ones (DESIGN CHOICE, log 1). -/
def Config.reference : Config where
  rxStartByte := 0xAA
  txStartByte := 0xC5
  rxLenMin := 2
  rxLenMax := 5
  rxBufBytes := 7
  queueCap := 10
  maxFans := 2
  fanCount := 2
  tempCount := 2
  deviceId := 7
  timerTop := 320
  clkHz := 16000000
  stallTimeoutMs := 250
  spacingMs := 50
  rpmWindowMs := 1000
  rpmScale := 60000
  cyclesPerRev := 2
  initDutyPercent := 50
  txBufBytes := 16
  probePendingMax := 255
  crcPoly := 0x8C
  crcInit := 0x00

/-- The tag `Error` (R108), which is no parameter: only a reply payload carries it. -/
abbrev errorTag : Byte := 0xFF

/-! ## The extents of the register arrays

10_state.md numbers these arrays' registers, so their extents are types; `Config.valid` ties each to its parameter. -/

/-- RX_BUF[0..6] (R26). -/
abbrev Extent.rxBuf : Nat := 7
/-- Q_ENTRY[0..9] (R28). -/
abbrev Extent.queue : Nat := 10
/-- One register per physical channel, 0 and 1 (R31). -/
abbrev Extent.fans : Nat := 2

/-! ## Per-channel data -/

/-- One value per physical channel c in 0..MAX_FANS-1 (R31). -/
abbrev PerFan (α : Type) := Vector α Extent.fans

/-! ## The inputs of one step -/

/-- The draw of R203: what becomes of a tachometer edge that coincides with a capture. -/
inductive CaptureDraw where
  | old    -- counted in the closing window
  | new    -- counted in the new window
  | lost   -- counted nowhere
deriving DecidableEq, Repr, Inhabited

/-- Everything the environment chooses in one step: the input ports of R98 and R99, the draws of R203 and R188, and the draws for
values no rule gives: `tx_data` where nothing drives it (DESIGN CHOICE, log 21), and what TX_LEN and PROBE_PENDING hold of a number
too large for their widths (DESIGN CHOICE, log 10). -/
structure Inputs where
  /-- `rst`, synchronous reset. -/
  rst : Bool
  /-- `tick_1ms`. -/
  tick1ms : Bool
  /-- `tach[c]`, the synchronised line levels. -/
  tach : PerFan Bool
  /-- `rx_valid`. -/
  rxValid : Bool
  /-- `rx_data`. -/
  rxData : Byte
  /-- `dp_valid`. -/
  dpValid : Bool
  /-- `dp_word`. -/
  dpWord : Word
  /-- `dp_payload[0..TX_PAYLOAD_MAX-1]`, lane 0 first. -/
  dpPayload : List Byte
  /-- `tx_ready`. -/
  txReady : Bool
  /-- The draw k of R203, one per channel. -/
  captureDraw : PerFan CaptureDraw
  /-- The free pin level of R188, one per channel. -/
  pinDraw : PerFan Bool
  /-- The free value of `tx_data` in a step with `tx_valid` = 0, which no rule gives (log 21). -/
  txDataDraw : Byte
  /-- The free value of TX_LEN for a frame of 32 bytes or more, which its 5 bits cannot hold (R41, log 10). -/
  txLenDraw : BitVec 5
  /-- The free value of PROBE_PENDING for a count of 256, which its 8 bits cannot hold (R44, log 10). -/
  probePendingDraw : BitVec 8
deriving DecidableEq, Repr, Inhabited

/-- R111's default of every input: no reset, no tick, no byte, lines at 1, no operation, `ready` = 1. -/
def Inputs.quiet : Inputs where
  rst := false
  tick1ms := false
  tach := #v[true, true]
  rxValid := false
  rxData := 0
  dpValid := false
  dpWord := 0
  dpPayload := []
  txReady := true
  captureDraw := #v[.lost, .lost]
  pinDraw := #v[false, false]
  txDataDraw := 0
  txLenDraw := 0
  probePendingDraw := 0

/-- The free environment (R8, R9): the inputs and draws of the step with this number, where no script fixes them. It has no
body, so a claim about it holds whatever the environment does (log 3, log 4). -/
opaque Config.envInputs : Nat → Inputs

end Sys2Proof
end

