-- ==== Sys2Proof/Machine/Crc.lean ====
section
/-! DEFINITION. The CRC8 checker (40_crc8.md R130, R131): a pure function, used alike for request and reply frames (R133). -/

namespace Sys2Proof.Machine

/-- One round of R131's loop: `mix` is bit 0 of `crc xor b`, the CRC shifts right and takes the polynomial if `mix` is 1. -/
def crcRound (poly crc b : Byte) : Byte :=
  if (crc ^^^ b).getLsbD 0 then (crc >>> 1) ^^^ poly else crc >>> 1

/-- `k` rounds, the data byte shifting right after each (R131). -/
def crcRounds (poly : Byte) : Nat → Byte → Byte → Byte
  | 0, crc, _ => crc
  | k + 1, crc, b => crcRounds poly k (crcRound poly crc b) (b >>> 1)

/-- `crc8_step` (R131): one byte into the running CRC, least significant bit first. -/
def crc8Step (poly crc b : Byte) : Byte := crcRounds poly 8 crc b

/-- `k b`, written so that an evaluation by unfolding computes the byte `b` before it goes on with `k` (`forced_eq`). -/
def forced {α : Type} (b : Byte) (k : Byte → α) : α :=
  match b.toNat with
  | 0 => k 0
  | n + 1 => k (BitVec.ofNat 8 (n + 1))

/-- The loop of R130 from a running CRC: `crc <- crc8_step(crc, bytes[i])` for each byte in wire order. -/
def crc8From (poly : Byte) : Byte → List Byte → Byte
  | crc, [] => crc
  | crc, b :: rest => forced (crc8Step poly crc b) fun crc => crc8From poly crc rest

/-- `crc8` (R130) of a byte sequence in wire order, from CRC_INIT and with CRC_POLY_REFLECTED. -/
def crc8 (cfg : Config) (bytes : List Byte) : Byte := crc8From cfg.crcPoly cfg.crcInit bytes

/-- The byte-wide form R131 calls equal: exclusive or of the byte first, then eight rounds on zero data. -/
def crc8StepByteWide (poly crc b : Byte) : Byte := crcRounds poly 8 (crc ^^^ b) 0

end Sys2Proof.Machine
end

