-- ==== Sys2Proof/Machine/Mapper.lean ====
section
/-! DEFINITION. The block's integer arithmetic: the percent mapping (43_fan_pwm.md R180, R181) and the RPM function
(44_fan_tach.md R204), on exact integers. -/

namespace Sys2Proof.Machine

/-- `map_fwd(p) = (p * TIMER_TOP) / 100`, truncated (R180). -/
def mapFwd (top p : Nat) : Nat := p * top / 100

/-- `map_inv(d) = ((TIMER_TOP - d) * 100) / TIMER_TOP`, truncated, for d in 0..TIMER_TOP (R181). -/
def mapInv (top d : Nat) : Nat := (top - d) * 100 / top

/-- The value stored in the duty register: the inverted `TIMER_TOP - map_fwd(p)` (R180). -/
def dutyOf (top p : Nat) : Half := BitVec.ofNat 16 (top - mapFwd top p)

/-- `rpm(n, e)` with both divisions truncated and saturation at 0xFFFF (R204). -/
def rpm (cfg : Config) (n e : Nat) : Nat := min (n * cfg.rpmScale / e / cfg.cyclesPerRev) 0xFFFF

/-- One value per channel from a rule for each channel. -/
def perFan {α : Type} (f : Fin Extent.fans → α) : PerFan α := #v[f 0, f 1]

end Sys2Proof.Machine
end

