-- ==== Sys2Proof/Syntax.lean ====
section
/-! DEFINITION. The instructions: one constructor per row of spec/opcode_table.json, seven request frames (30_encoding.md R93)
and seven dispatch-port operations (R100). Operands are unsigned bytes as sent (R110). -/

namespace Sys2Proof

/-- An instruction of the block. Where R100 gives a dispatch word an A or B field that the operation ignores (R106), the
constructor still carries it, so that no bit of the word is lost in decoding (log 13). -/
inductive Instr where
  /-- `AA 02 01 crc8` (R147). -/
  | probeDevice
  /-- `AA 02 20 crc8` (R148). -/
  | getTemp
  /-- `AA 02 30 crc8` (R148). -/
  | getFanRpm
  /-- `AA 03 31 channel crc8` (R149). -/
  | getFanPwm (channel : Byte)
  /-- `AA 04 32 channel pwm crc8` (R150). -/
  | setFanPwm (channel pwm : Byte)
  /-- `AA 04 40 addrH addrL crc8` (R149). -/
  | eeReadByte (addrH addrL : Byte)
  /-- `AA 05 41 addrH addrL value crc8` (R150). -/
  | eeWriteByte (addrH addrL value : Byte)
  /-- OP 000; A and B ignored (R106). -/
  | nop (a b : Byte)
  /-- OP 001; A and B ignored (R171). -/
  | qpop (a b : Byte)
  /-- OP 010 (R182). -/
  | setpwm (channel percent : Byte)
  /-- OP 011; B ignored (R183). -/
  | getpwm (channel b : Byte)
  /-- OP 100; B ignored (R205). -/
  | getrpm (channel b : Byte)
  /-- OP 101; A and B ignored (R202). -/
  | update (a b : Byte)
  /-- OP 110 with the payload length n; B ignored (R220). The payload is on the lanes `dp_payload` (R102). -/
  | send (n b : Byte)
deriving DecidableEq, Repr, Inhabited

/-- Whether the instruction is a request frame (R93); otherwise it is a dispatch-port operation (R100). -/
def Instr.isRequest : Instr → Bool
  | .probeDevice | .getTemp | .getFanRpm | .getFanPwm _ | .setFanPwm _ _ | .eeReadByte _ _ | .eeWriteByte _ _ _ => true
  | .nop _ _ | .qpop _ _ | .setpwm _ _ | .getpwm _ _ | .getrpm _ _ | .update _ _ | .send _ _ => false

end Sys2Proof
end

