-- ==== Sys2Proof/WellFormed.lean ====
section
/-! DEFINITION. Well-formedness: of a configuration (every constraint of 00_scope.md R6), of the inputs of a step (R99) and of
an instruction (R110). -/

namespace Sys2Proof

/-- The constraints of R6, one conjunct each, in its order. A model refuses any other configuration (R11, U6).
`CLK_HZ / (2 TIMER_TOP)` about 25 000 is read as 24 000 to 26 000 (DESIGN CHOICE, log 11). -/
def Config.valid (c : Config) : Bool := decide (
  c.rxStartByte = 0xAA ∧ c.txStartByte = 0xC5 ∧
  c.rxLenMin = 2 ∧ c.rxLenMax = 5 ∧ c.rxBufBytes = 2 + c.rxLenMax ∧
  c.queueCap = 10 ∧ c.maxFans = 2 ∧
  c.fanCount ≤ c.maxFans ∧
  c.tempCount ≤ 4 ∧
  c.deviceId ≤ 255 ∧
  100 ≤ c.timerTop ∧ c.timerTop ≤ 65535 ∧
  24000 ≤ c.clkHz / (2 * c.timerTop) ∧ c.clkHz / (2 * c.timerTop) ≤ 26000 ∧
  1 ≤ c.stallTimeoutMs ∧ c.stallTimeoutMs ≤ 2 ^ 31 ∧
  c.spacingMs ≤ 2 ^ 31 ∧
  1 ≤ c.rpmWindowMs ∧ c.rpmWindowMs ≤ 2 ^ 31 ∧
  c.rpmScale = 60000 ∧
  1 ≤ c.cyclesPerRev ∧
  c.initDutyPercent ≤ 100 ∧
  13 ≤ c.txBufBytes ∧ c.txBufBytes ≤ 255 ∧
  1 ≤ c.probePendingMax ∧
  c.crcPoly = 0x8C ∧ c.crcInit = 0x00)

/-- The SEND payload bus has exactly TX_PAYLOAD_MAX lanes (R99, R102). -/
def Inputs.wellFormed (c : Config) (i : Inputs) : Bool :=
  decide (i.dpPayload.length = c.txPayloadMax)

/-- Every operand of an instruction is an unsigned byte as sent and no rule range-checks it in the encoding (R106, R110), so the
types leave no ill-formed instruction: SETPWM's channel and percent and SEND's length are checked by their meanings. -/
def Instr.wellFormed : Instr → Bool
  | .probeDevice => true
  | .getTemp => true
  | .getFanRpm => true
  | .getFanPwm _ => true
  | .setFanPwm _ _ => true
  | .eeReadByte _ _ => true
  | .eeWriteByte _ _ _ => true
  | .nop _ _ => true
  | .qpop _ _ => true
  | .setpwm _ _ => true
  | .getpwm _ _ => true
  | .getrpm _ _ => true
  | .update _ _ => true
  | .send _ _ => true

end Sys2Proof
end

