-- ==== Sys2Proof/Machine/State.lean ====
section
/-! DEFINITION. The block's state (10_state.md), the faults and refusals, and the state right after reset (70_reset_and_hazards.md
R280). Registers are grouped by unit (00_scope.md R2); each is written only by the rules that name it (R20). -/

namespace Sys2Proof.Machine

/-! ## Register encodings -/

/-- RX_STATE, 2 bits (R23): 0 to 3 in this order. -/
inductive RxState where
  | idle | awaitLen | awaitPayload
  /-- Encoding 3, unreachable (R23, R48); a step that finds it faults (U8). -/
  | reserved
deriving DecidableEq, Repr, Inhabited

/-- TX_STATE, 2 bits (R39): 0 to 3 in this order. -/
inductive TxState where
  | idle | emit | space
  /-- Encoding 3, unreachable (R39, R48); a step that finds it faults (U8). -/
  | reserved
deriving DecidableEq, Repr, Inhabited

/-- PWM_DIR, 1 bit (R34): 0 = UP, 1 = DOWN. -/
inductive PwmDir where
  | up | down
deriving DecidableEq, Repr, Inhabited

/-- `dp_status` (R101): codes 0 to 4 in this order; 5 to 7 are never driven and have no constructor (U11). -/
inductive DpStatus where
  | ok | fail | busy | illegal | empty
deriving DecidableEq, Repr, Inhabited

/-! ## The units' registers -/

/-- The frame receiver's registers (R23 to R27). -/
structure Rx where
  /-- RX_STATE. -/
  state : RxState
  /-- RX_REMAINING. -/
  remaining : BitVec 3
  /-- RX_COUNT. -/
  count : BitVec 3
  /-- RX_BUF. -/
  buf : Vector Byte Extent.rxBuf
  /-- RX_START. -/
  start : Word
deriving DecidableEq, Repr

/-- The command queue's registers (R28 to R30). -/
structure Queue where
  /-- Q_ENTRY, in ring order. -/
  entry : Vector Word Extent.queue
  /-- Q_HEAD. -/
  head : BitVec 4
  /-- Q_COUNT. -/
  count : BitVec 4
deriving DecidableEq, Repr

/-- The PWM unit's registers (R31 to R34). -/
structure Pwm where
  /-- DUTY. -/
  duty : PerFan Half
  /-- DUTY_ACTIVE. -/
  dutyActive : PerFan Half
  /-- PWM_CNT; of a count its 16 bits cannot hold, in states no run reaches: `pwmCount`, log 9. -/
  cnt : Half
  /-- PWM_DIR. -/
  dir : PwmDir
deriving DecidableEq, Repr

/-- The tachometer unit's registers (R35 to R38). -/
structure Tach where
  /-- PULSE. -/
  pulse : PerFan Word
  /-- LAST_RPM. -/
  lastRpm : PerFan Half
  /-- WINDOW_START. -/
  windowStart : Word
  /-- TACH_PREV. -/
  prev : PerFan Bool
deriving DecidableEq, Repr

/-- The frame sender's registers (R39 to R44). -/
structure Tx where
  /-- TX_STATE. -/
  state : TxState
  /-- TX_BUF, TX_BUF_BYTES bytes. -/
  buf : List Byte
  /-- TX_LEN, 5 bits (R41); of a frame they cannot hold: `frameLen`, log 10. -/
  len : BitVec 5
  /-- TX_IDX, 5 bits (R42). -/
  idx : BitVec 5
  /-- TX_SPACE_START. -/
  spaceStart : Word
  /-- PROBE_PENDING, 8 bits (R44); of a count they cannot hold: `oneMorePending`, log 10. -/
  probePending : BitVec 8
deriving DecidableEq, Repr

/-! ## Outputs and wires -/

/-- The output ports of R98 and R99, as the last step drove them. -/
structure Outputs where
  /-- `tx_valid`. -/
  txValid : Bool
  /-- `tx_data`. -/
  txData : Byte
  /-- `err_flags` (R260). -/
  errFlags : BitVec 16
  /-- `rx_cmd_valid`. -/
  rxCmdValid : Bool
  /-- `rx_cmd`. -/
  rxCmd : Word
  /-- `dp_resp_valid`. -/
  dpRespValid : Bool
  /-- `dp_status`. -/
  dpStatus : DpStatus
  /-- `dp_data`. -/
  dpData : Word
  /-- `pwm_pin[c]`. -/
  pwmPin : PerFan Bool
  /-- `tx_busy`. -/
  txBusy : Bool
  /-- `q_count`. -/
  qCount : BitVec 4
deriving DecidableEq, Repr

/-- What one phase hands to a later phase of the same step; nothing here lives on to the next step (R263). -/
structure Wires where
  /-- `edge[c]` of R200. -/
  edge : PerFan Bool
  /-- `consumed[c]` of R203. -/
  consumed : PerFan Bool
  /-- The record of this step's `Push(rec)` (R8, R170). -/
  push : Option Word
deriving DecidableEq, Repr

/-- The idle values of the outputs: `tx_valid`, `err_flags`, `rx_cmd_valid` and `dp_resp_valid` by R10, `rx_cmd` by R153,
`dp_status` and `dp_data` by R101; `tx_busy`, `q_count` and `pwm_pin` are driven in every step. `tx_data` is R280's value of a
reset step; outside reset no rule gives it while `tx_valid` = 0, and `beginStep` lets it be any value (DESIGN CHOICE, log 21). -/
def Outputs.idle : Outputs where
  txValid := false
  txData := 0
  errFlags := 0
  rxCmdValid := false
  rxCmd := 0
  dpRespValid := false
  dpStatus := .ok
  dpData := 0
  pwmPin := #v[false, false]
  txBusy := false
  qCount := 0

/-- No edge, nothing consumed, no record. -/
def Wires.idle : Wires where
  edge := #v[false, false]
  consumed := #v[false, false]
  push := none

/-! ## The state -/

/-- Everything the spec gives the block, its configuration, and the model's own fields (log 5). -/
structure State where
  /-- The configuration of R6, which no step changes (R46). -/
  cfg : Config
  /-- MS_CLOCK (R22). -/
  msClock : Word
  /-- The frame receiver. -/
  rx : Rx
  /-- The command queue. -/
  q : Queue
  /-- The PWM unit. -/
  pwm : Pwm
  /-- The tachometer unit. -/
  tach : Tach
  /-- The frame sender. -/
  tx : Tx
  /-- Model's own: the inputs this step sampled (R9). -/
  inp : Inputs
  /-- Model's own: the outputs of the last step (R10). -/
  out : Outputs
  /-- Model's own: what the phases of a step hand on. -/
  wires : Wires
  /-- Model's own: the inputs of the next steps, first one first; when it is empty the environment is free (log 3). -/
  script : List Inputs
  /-- Model's own: how many steps were taken, the argument of `Config.envInputs` (log 3). -/
  stepNo : Nat
deriving DecidableEq, Repr

/-! ## Faults and refusals -/

/-- Why a step stops. Every one stands for a state that no run from reset reaches (R48, 93_implementation_defined.md U7, U8), so
each is safe: a true claim may need `Safety.Inv` as a premise, and no false claim can be proved (log 8). -/
inductive Fault where
  /-- Raised by the receiver on RX_STATE = 3 (U8). Safe. -/
  | reservedRxState
  /-- Raised by the sender on TX_STATE = 3 (U8). Safe. -/
  | reservedTxState
  /-- Raised by the receiver when RX_COUNT points past RX_BUF (R26, R48(d)). Safe. -/
  | rxBufferIndex
  /-- Raised by the trailer check when the bytes received are no frame of L + 2 bytes from 0xAA, so that it would read a byte it
  did not store (R48(c), (d), U7). Safe. -/
  | rxFrameShape
  /-- Raised by QPOP when Q_HEAD is no index of Q_ENTRY (R29, R48(e)). Safe. -/
  | queueIndex
  /-- Raised by emission when TX_IDX is not below TX_LEN or not in TX_BUF (R48(f), U7). Safe. -/
  | txBufferIndex
  /-- Raised by GETPWM when an active channel's DUTY is above TIMER_TOP, outside the domain of map_inv (R181, R48(g)). Safe. -/
  | dutyAboveTop
deriving DecidableEq, Repr

/-- Why a step is refused. -/
inductive Refusal where
  /-- Raised by exec for an instruction without a meaning yet. Safe. -/
  | notModelled (mnemonic : String)
  /-- Raised by step on a configuration outside R6's constraints (R11, U6). Safe. -/
  | badConfiguration
deriving DecidableEq, Repr

/-! ## Reset -/

/-- The register values of R280 under a configuration. RX_BUF, Q_ENTRY, TX_BUF and the duty registers of an inactive channel,
which R280 leaves unspecified, are 0 (DESIGN CHOICE, log 2). The outputs are R280's, but for the pins, which `resetPhase` and
`State.reset` give. -/
def State.afterReset (cfg : Config) : State :=
  let duty : PerFan Half := perFan fun c =>
    if c.val < cfg.fanCount then dutyOf cfg.timerTop cfg.initDutyPercent else 0
  { cfg := cfg
    msClock := 0
    rx := { state := .idle, remaining := 0, count := 0, buf := Vector.replicate _ 0, start := 0 }
    q := { entry := Vector.replicate _ 0, head := 0, count := 0 }
    pwm := { duty := duty, dutyActive := duty, cnt := 0, dir := .up }
    tach := { pulse := #v[0, 0], lastRpm := #v[0, 0], windowStart := 0, prev := #v[true, true] }
    tx := { state := .idle, buf := List.replicate cfg.txBufBytes 0, len := 0, idx := 0, spaceStart := 0, probePending := 0 }
    inp := Inputs.quiet
    out := Outputs.idle
    wires := Wires.idle
    script := []
    stepNo := 0 }

/-- The machine right after a reset step (R280) under the reference configuration (log 1): nothing scripted, so that the next
inputs are the environment's. Both channels are active and DUTY_ACTIVE is 160, so R280 gives both pins 1. -/
def State.reset : State :=
  { State.afterReset Config.reference with out := { Outputs.idle with pwmPin := #v[true, true] } }

end Sys2Proof.Machine
end

