-- ==== Sys2Proof/Machine/Flags.lean ====
section
/-! DEFINITION. The error events' bits and the status codes (60_exceptions.md R260, 30_encoding.md R101). -/

namespace Sys2Proof.Machine

/-- The error kinds of R260. -/
inductive ErrKind where
  | frameTimeout | crcMismatch | invalidLength | unknownCommand | lengthMismatch | queueOverflow
  | sendOverflow | sendBusy | channelOutOfRange | pwmOutOfRange | illegalOp | probeOverflow
deriving DecidableEq, Repr

/-- The bit of `err_flags` each kind sets (R260). Bits 12 to 15 belong to none. -/
def ErrKind.bit : ErrKind → Nat
  | .frameTimeout => 0
  | .crcMismatch => 1
  | .invalidLength => 2
  | .unknownCommand => 3
  | .lengthMismatch => 4
  | .queueOverflow => 5
  | .sendOverflow => 6
  | .sendBusy => 7
  | .channelOutOfRange => 8
  | .pwmOutOfRange => 9
  | .illegalOp => 10
  | .probeOverflow => 11

/-- The one-bit mask of a kind. -/
def ErrKind.mask (k : ErrKind) : BitVec 16 := BitVec.twoPow 16 k.bit

/-- The code driven on `dp_status` (R101). -/
def DpStatus.code : DpStatus → BitVec 3
  | .ok => 0
  | .fail => 1
  | .busy => 2
  | .illegal => 3
  | .empty => 4

/-- The encoding of RX_STATE (R23). -/
def RxState.code : RxState → BitVec 2
  | .idle => 0
  | .awaitLen => 1
  | .awaitPayload => 2
  | .reserved => 3

/-- The encoding of TX_STATE (R39). -/
def TxState.code : TxState → BitVec 2
  | .idle => 0
  | .emit => 1
  | .space => 2
  | .reserved => 3

/-- The encoding of PWM_DIR (R34). -/
def PwmDir.code : PwmDir → BitVec 1
  | .up => 0
  | .down => 1

end Sys2Proof.Machine
end

