-- ==== Sys2Proof/Machine/Operands.lean ====
section
/-! DEFINITION. Reading the operands of an instruction: register arrays by index, the channel test, the SEND lanes, and the
inputs of a step. -/

namespace Sys2Proof.Machine

/-- The element at index i of a register array, `d` where the array has no such index (every caller tests the index first). -/
def rdAt {α : Type} {n : Nat} (v : Vector α n) (i : Nat) (d : α) : α := v[i]?.getD d

/-- The array with the element at index i written; an index the array does not have writes nothing. -/
def wrAt {α : Type} {n : Nat} (v : Vector α n) (i : Nat) (x : α) : Vector α n := v.setIfInBounds i x

/-- An active channel: c < FAN_COUNT (R12, R110). -/
def channelActive (cfg : Config) (c : Nat) : Bool := decide (c < cfg.fanCount)

/-- `dp_payload[0..n-1]` (R102). A lane the input does not drive reads 0 (DESIGN CHOICE, log 12). -/
def payloadLanes (lanes : List Byte) (n : Nat) : List Byte := (List.range n).map fun i => lanes.getD i 0

/-- The inputs the next step samples: the script's first, or the free environment's (R8, R9; log 3). -/
def nextInputs (s : State) : Inputs :=
  match s.script with
  | i :: _ => i
  | [] => Config.envInputs s.stepNo

/-- `elapsed(t0) = (MS_CLOCK - t0) mod 2^32` (R7), as a number of milliseconds. -/
def elapsed (s : State) (t0 : Word) : Nat := (s.msClock - t0).toNat

/-- The bytes of the current frame stored in RX_BUF: its first RX_COUNT elements (R25, R26). -/
def receivedBytes (r : Rx) : List Byte := r.buf.toList.take r.count.toNat

/-- The occupied entries, oldest first: Q_ENTRY[(Q_HEAD + i) mod QUEUE_CAP] for 0 <= i < Q_COUNT (R30). -/
def queueContents (cfg : Config) (q : Queue) : List Word :=
  (List.range q.count.toNat).map fun i => rdAt q.entry ((q.head.toNat + i) % cfg.queueCap) 0

end Sys2Proof.Machine
end

