-- ==== Sys2Proof/Machine/Ops.lean ====
section
/-! DEFINITION. The named operations over the registers that the meanings and the phases share. The block has no trap mechanism
(60_exceptions.md R261): the shared operation for an error is `raise`, which sets a bit of this step's `err_flags` and nothing
else, and there is no return from it. -/

namespace Sys2Proof.Machine

/-- The three outcomes over this model's reasons. -/
abbrev Result (α : Type) := Host.Outcome α Fault Refusal

/-- Go on with the result of `o`, or stop as it stopped. -/
def andThen {α β : Type} (o : Result α) (f : α → Result β) : Result β :=
  match o with
  | .next a => f a
  | .fault r => .fault r
  | .refused r => .refused r

/-! ## Events and outputs -/

/-- `raise Err(KIND)` (R8, R260): the kind's bit of this step's `err_flags`, and no other change. -/
def raise (k : ErrKind) (s : State) : State :=
  { s with out := { s.out with errFlags := s.out.errFlags ||| k.mask } }

/-- `raise Err(KIND)` if a condition holds. -/
def raiseIf (b : Bool) (k : ErrKind) (s : State) : State := if b then raise k s else s

/-- `respond(status, data)` (R8, R101): this step's dispatch-port response. -/
def respond (status : DpStatus) (data : Word) (s : State) : State :=
  { s with out := { s.out with dpRespValid := true, dpStatus := status, dpData := data } }

/-- `rx_cmd_valid <- 1; rx_cmd <- rec` (R146, R153). -/
def announce (rec : Word) (s : State) : State :=
  { s with out := { s.out with rxCmdValid := true, rxCmd := rec } }

/-! ## Command queue -/

/-- `Push(rec)` (R8): hand the record to phase P5 of this step. -/
def requestPush (rec : Word) (s : State) : State :=
  { s with wires := { s.wires with push := some rec } }

/-- The ring after a record is appended (R170). -/
def Queue.pushed (cfg : Config) (q : Queue) (rec : Word) : Queue :=
  { q with entry := wrAt q.entry ((q.head.toNat + q.count.toNat) % cfg.queueCap) rec, count := q.count + 1 }

/-- The ring after its oldest record is removed (R171). -/
def Queue.popped (cfg : Config) (q : Queue) : Queue :=
  { q with head := BitVec.ofNat 4 ((q.head.toNat + 1) % cfg.queueCap), count := q.count - 1 }

/-! ## Frame receiver -/

/-- `ToIdle()` (R140): RX_BUF and RX_START keep their values. -/
def toIdle (s : State) : State :=
  { s with rx := { s.rx with state := .idle, count := 0, remaining := 0 } }

/-- PROBE_PENDING + 1 (R147). R44's 8 bits hold every count up to R6's PROBE_PENDING_MAX = 255; under a larger maximum, which R6's
range also allows, no rule says what they hold of 256, and it is the step's draw (DESIGN CHOICE, log 10). -/
def oneMorePending (draw pending : BitVec 8) : BitVec 8 := if pending.toNat < 255 then pending + 1 else draw

/-- `probe_request()` (R147): one more owed reply, or PROBE_OVERFLOW at saturation. -/
def probeRequest (s : State) : State :=
  if s.tx.probePending.toNat = s.cfg.probePendingMax then raise .probeOverflow s
  else { s with tx := { s.tx with probePending := oneMorePending s.inp.probePendingDraw s.tx.probePending } }

/-! ## Fans -/

/-- `DUTY[c] <- d` (R182). -/
def setDuty (c : Nat) (d : Half) (s : State) : State :=
  { s with pwm := { s.pwm with duty := wrAt s.pwm.duty c d } }

/-- The count `capture(c)` returns (R203): PULSE[c], with a coincident edge added exactly under the draw OLD. -/
def capturedPulses (s : State) (c : Fin Extent.fans) : Word :=
  if s.wires.edge[c] ∧ s.inp.captureDraw[c] = .old then s.tach.pulse[c] + 1 else s.tach.pulse[c]

/-- Whether `capture(c)` leaves `consumed[c]` set (R203): a coincident edge under OLD or LOST. -/
def captureConsumes (s : State) (c : Fin Extent.fans) : Bool :=
  s.wires.edge[c] && decide (s.inp.captureDraw[c] ≠ .new)

/-- A due UPDATE at elapsed time e (R202): capture every active channel, compute its RPM, start the new window now. -/
def closeWindow (e : Nat) (s : State) : State :=
  { s with
    tach := { s.tach with
      pulse := perFan fun c => if channelActive s.cfg c.val then 0 else s.tach.pulse[c]
      lastRpm := perFan fun c =>
        if channelActive s.cfg c.val then BitVec.ofNat 16 (rpm s.cfg (capturedPulses s c).toNat e)
        else s.tach.lastRpm[c]
      windowStart := s.msClock }
    wires := { s.wires with
      consumed := perFan fun c => channelActive s.cfg c.val && captureConsumes s c } }

/-! ## Frame sender -/

/-- A reply frame (R97): 0xC5, payload length + 1, the payload, the CRC of all before it. -/
def replyFrame (cfg : Config) (payload : List Byte) : List Byte :=
  let body := [cfg.txStartByte, BitVec.ofNat 8 (payload.length + 1)] ++ payload
  body ++ [crc8 cfg body]

/-- TX_LEN of a frame of `bytes` bytes (R221). R41's 5 bits hold every length up to R6's TX_BUF_BYTES = 16; of a frame of 32 bytes
or more, which R6's range also allows, no rule says what they hold but R41's bound 3, and it is the step's draw within that bound
(DESIGN CHOICE, log 10). -/
def frameLen (draw : BitVec 5) (bytes : Nat) : BitVec 5 :=
  if bytes < 32 then BitVec.ofNat 5 bytes else BitVec.ofNat 5 (max 3 draw.toNat)

/-- `load_frame` (R221): TX_BUF[0..n+2] and TX_LEN; the rest of TX_BUF keeps its bytes. -/
def loadFrame (payload : List Byte) (s : State) : State :=
  { s with tx := { s.tx with
      buf := replyFrame s.cfg payload ++ s.tx.buf.drop (payload.length + 3)
      len := frameLen s.inp.txLenDraw (payload.length + 3) } }

/-- Load a frame and begin its emission: `load_frame(...); TX_STATE <- EMIT; TX_IDX <- 0` (R220, R224). -/
def beginFrame (payload : List Byte) (s : State) : State :=
  let s := loadFrame payload s
  { s with tx := { s.tx with state := .emit, idx := 0 } }

/-- The ProbeDevice reply's payload `{0x01, DEVICE_ID, TEMP_COUNT, FAN_COUNT}` (R225). -/
def probePayload (cfg : Config) : List Byte :=
  [0x01, BitVec.ofNat 8 cfg.deviceId, BitVec.ofNat 8 cfg.tempCount, BitVec.ofNat 8 cfg.fanCount]

/-- The sender cannot accept a SEND (R223): TX_STATE is not IDLE or a probe reply is owed. It is also `tx_busy` (R229). -/
def senderBusy (s : State) : Bool := decide (s.tx.state ≠ .idle) || decide (s.tx.probePending ≠ 0)

end Sys2Proof.Machine
end

