-- ==== Sys2Proof/Machine/PortFans.lean ====
section
/-! DEFINITION. The dispatch operations SETPWM, GETPWM (43_fan_pwm.md R182, R183), GETRPM and UPDATE (44_fan_tach.md R205,
R202). -/

namespace Sys2Proof.Machine

/-- SETPWM (R182): FAIL with a flag for each operand out of range and no change, or the inverted mapped duty and OK. -/
def execSetpwm (channel percent : Byte) (s : State) : Result State :=
  let badChannel := !channelActive s.cfg channel.toNat
  let badPercent := decide (100 < percent.toNat)
  if badChannel || badPercent then
    .next (respond .fail 0 (raiseIf badPercent .pwmOutOfRange (raiseIf badChannel .channelOutOfRange s)))
  else
    .next (respond .ok 0 (setDuty channel.toNat (dutyOf s.cfg.timerTop percent.toNat) s))

/-- GETPWM (R183): 0 for an inactive channel, else the inverse map of DUTY[c]. DUTY[c] above TIMER_TOP is outside the domain of
the inverse map and unreachable (R181, R48(g); log 8). -/
def execGetpwm (channel _b : Byte) (s : State) : Result State :=
  if channelActive s.cfg channel.toNat then
    let duty := (rdAt s.pwm.duty channel.toNat 0).toNat
    if duty ≤ s.cfg.timerTop then .next (respond .ok (BitVec.ofNat 32 (mapInv s.cfg.timerTop duty)) s)
    else .fault .dutyAboveTop
  else .next (respond .ok 0 s)

/-- GETRPM (R205): 0 for an inactive channel, else LAST_RPM[c]. -/
def execGetrpm (channel _b : Byte) (s : State) : Result State :=
  if channelActive s.cfg channel.toNat then
    .next (respond .ok ((rdAt s.tach.lastRpm channel.toNat 0).setWidth 32) s)
  else .next (respond .ok 0 s)

/-- UPDATE (R202): data 0 and no change before RPM_WINDOW_MS have passed, else close the window and data 1. -/
def execUpdate (_a _b : Byte) (s : State) : Result State :=
  let e := elapsed s s.tach.windowStart
  if e < s.cfg.rpmWindowMs then .next (respond .ok 0 s)
  else .next (respond .ok 1 (closeWindow e s))

end Sys2Proof.Machine
end

