-- ==== Sys2Proof/Machine/PortQueue.lean ====
section
/-! DEFINITION. The dispatch operations NOP (30_encoding.md R106) and QPOP (42_command_queue.md R171). -/

namespace Sys2Proof.Machine

/-- NOP: changes nothing and responds OK with data 0; A and B are ignored (R106). -/
def execNop (_a _b : Byte) (s : State) : Result State := .next (respond .ok 0 s)

/-- QPOP: EMPTY, or the oldest record, removed (R171); A and B are ignored. -/
def execQpop (_a _b : Byte) (s : State) : Result State :=
  if s.q.count = 0 then .next (respond .empty 0 s)
  else if s.q.head.toNat < s.cfg.queueCap then
    .next (respond .ok (rdAt s.q.entry s.q.head.toNat 0) { s with q := s.q.popped s.cfg })
  else .fault .queueIndex

end Sys2Proof.Machine
end

