-- ==== Sys2Proof/Machine/PortSend.lean ====
section
/-! DEFINITION. The dispatch operation SEND (45_frame_sender.md R220 to R223). -/

namespace Sys2Proof.Machine

/-- SEND (R220): FAIL with SEND_OVERFLOW if the payload does not fit (R222), BUSY with SEND_BUSY if the sender is not free
(R223), else the frame is loaded and its emission begins. -/
def execSend (n _b : Byte) (s : State) : Result State :=
  if s.cfg.txPayloadMax < n.toNat then .next (respond .fail 0 (raise .sendOverflow s))
  else if senderBusy s then .next (respond .busy 0 (raise .sendBusy s))
  else .next (respond .ok 0 (beginFrame (payloadLanes s.inp.dpPayload n.toNat) s))

end Sys2Proof.Machine
end

