-- ==== Sys2Proof/Decode.lean ====
section
/-! DEFINITION. Decoding of request frames (30_encoding.md R90 to R94, R103 to R105) and dispatch words (R100, R106), total and
rejecting by name; after it the encoder from the same tables, and the queue records (R95, R96). -/

namespace Sys2Proof

/-! ## Fields and operand assembly -/

/-- `v[8k+7:8k]`: byte k of a 32-bit word, byte 0 least significant (R7, R73). -/
def byteOf (w : Word) (k : Nat) : Byte := w.extractLsb' (8 * k) 8

/-- `{b3, b2, b1, b0}` (R7). -/
def packBytes (b3 b2 b1 b0 : Byte) : Word := b3 ++ b2 ++ b1 ++ b0

/-- `{addrH, addrL}`, an unsigned 16-bit EEPROM address (R72, R110). -/
def eeAddress (addrH addrL : Byte) : Half := addrH ++ addrL

/-! ## Rejections -/

/-- Why a byte sequence is no request frame. -/
inductive FrameError where
  /-- The first byte is not 0xAA (R90, R141). -/
  | badStart
  /-- The length byte is outside 2..5 (R104, R142). -/
  | invalidLength
  /-- The sequence does not have the L + 2 bytes its length byte fixes (R90, R109). -/
  | badExtent
  /-- The trailer differs from the CRC of the bytes before it (R92, R144). -/
  | crcMismatch
  /-- A valid frame with a command byte outside R93's seven (R103, R151). -/
  | unknownCommand
  /-- A valid frame with a known command and another length than the command's (R105, R152). -/
  | lengthMismatch
deriving DecidableEq, Repr

/-- Why a dispatch word is illegal (R106). -/
inductive WordError where
  /-- A 1 bit in `dp_word[7:3]` or `dp_word[31:24]`. -/
  | reservedBits
  /-- OP = 111. -/
  | reservedOp
deriving DecidableEq, Repr

/-- A rejection by either decoder. -/
inductive DecodeError where
  | frame (e : FrameError)
  | word (e : WordError)
deriving DecidableEq, Repr

/-- What the block decodes: the bytes of one request frame, or one dispatch word (30_encoding.md head). -/
inductive Packet where
  | frame (bytes : List Byte)
  | word (w : Word)
deriving DecidableEq, Repr

/-! ## Request frames -/

/-- R93's table: the required length L of a known command, none for an unknown one. -/
def requiredLen (cmd : Byte) : Option Nat :=
  if cmd = 0x01 then some 2
  else if cmd = 0x20 then some 2
  else if cmd = 0x30 then some 2
  else if cmd = 0x31 then some 3
  else if cmd = 0x32 then some 4
  else if cmd = 0x40 then some 4
  else if cmd = 0x41 then some 5
  else none

/-- The instruction of a command byte and its argument bytes in wire order (R93). -/
def decodeCommand (cmd : Byte) (args : List Byte) : Except FrameError Instr :=
  if cmd = 0x01 then match args with
    | [] => .ok .probeDevice
    | _ => .error .lengthMismatch
  else if cmd = 0x20 then match args with
    | [] => .ok .getTemp
    | _ => .error .lengthMismatch
  else if cmd = 0x30 then match args with
    | [] => .ok .getFanRpm
    | _ => .error .lengthMismatch
  else if cmd = 0x31 then match args with
    | [channel] => .ok (.getFanPwm channel)
    | _ => .error .lengthMismatch
  else if cmd = 0x32 then match args with
    | [channel, pwm] => .ok (.setFanPwm channel pwm)
    | _ => .error .lengthMismatch
  else if cmd = 0x40 then match args with
    | [addrH, addrL] => .ok (.eeReadByte addrH addrL)
    | _ => .error .lengthMismatch
  else if cmd = 0x41 then match args with
    | [addrH, addrL, value] => .ok (.eeWriteByte addrH addrL value)
    | _ => .error .lengthMismatch
  else .error .unknownCommand

/-- A frame is valid iff its last byte is the CRC of every byte before it (R92). -/
def trailerMatches (cfg : Config) (bytes : List Byte) : Bool :=
  decide (bytes.getLast? = some (Machine.crc8 cfg bytes.dropLast))

/-- A request frame (R90): the start byte, the length byte L, L further bytes of which the last is the CRC (R91, R92). The tests
come in the order of R142, R144 and R146: length, CRC, command known, length of the command. -/
def decodeFrame (cfg : Config) : List Byte → Except FrameError Instr
  | start :: len :: cmd :: rest =>
    if start ≠ cfg.rxStartByte then .error .badStart
    else if len.toNat < cfg.rxLenMin ∨ cfg.rxLenMax < len.toNat then .error .invalidLength
    else if rest.length + 1 ≠ len.toNat then .error .badExtent
    else if trailerMatches cfg (start :: len :: cmd :: rest) then decodeCommand cmd rest.dropLast
    else .error .crcMismatch
  | _ => .error .badExtent

/-! ## Dispatch words -/

/-- A dispatch word (R100): OP in bits 2:0, A in 15:8, B in 23:16; reserved bits and OP 111 are illegal (R106). -/
def decodeWord (w : Word) : Except WordError Instr :=
  let op := w.extractLsb' 0 3
  let a := byteOf w 1
  let b := byteOf w 2
  if w.extractLsb' 3 5 ≠ 0 ∨ byteOf w 3 ≠ 0 then .error .reservedBits
  else if op = 0b000#3 then .ok (.nop a b)
  else if op = 0b001#3 then .ok (.qpop a b)
  else if op = 0b010#3 then .ok (.setpwm a b)
  else if op = 0b011#3 then .ok (.getpwm a b)
  else if op = 0b100#3 then .ok (.getrpm a b)
  else if op = 0b101#3 then .ok (.update a b)
  else if op = 0b110#3 then .ok (.send a b)
  else .error .reservedOp

/-- The decoder of the block's two instruction ports. -/
def decode (cfg : Config) : Packet → Except DecodeError Instr
  | .frame bytes => match decodeFrame cfg bytes with
    | .ok i => .ok i
    | .error e => .error (.frame e)
  | .word w => match decodeWord w with
    | .ok i => .ok i
    | .error e => .error (.word e)

/-! ## The encoder -/

/-- The request frame of a command and its arguments: start byte, length = 2 + number of arguments, command, arguments, and the
CRC of them all (R90 to R94). -/
def frameOf (cfg : Config) (cmd : Byte) (args : List Byte) : List Byte :=
  let body := [cfg.rxStartByte, BitVec.ofNat 8 (args.length + 2), cmd] ++ args
  body ++ [Machine.crc8 cfg body]

/-- The dispatch word of an operation code and its A and B fields (R100). -/
def dpWordOf (op a b : Byte) : Word := packBytes 0 b a op

/-- The words of an instruction (R93, R100). -/
def encode (cfg : Config) : Instr → Packet
  | .probeDevice => .frame (frameOf cfg 0x01 [])
  | .getTemp => .frame (frameOf cfg 0x20 [])
  | .getFanRpm => .frame (frameOf cfg 0x30 [])
  | .getFanPwm channel => .frame (frameOf cfg 0x31 [channel])
  | .setFanPwm channel pwm => .frame (frameOf cfg 0x32 [channel, pwm])
  | .eeReadByte addrH addrL => .frame (frameOf cfg 0x40 [addrH, addrL])
  | .eeWriteByte addrH addrL value => .frame (frameOf cfg 0x41 [addrH, addrL, value])
  | .nop a b => .word (dpWordOf 0 a b)
  | .qpop a b => .word (dpWordOf 1 a b)
  | .setpwm channel percent => .word (dpWordOf 2 channel percent)
  | .getpwm channel b => .word (dpWordOf 3 channel b)
  | .getrpm channel b => .word (dpWordOf 4 channel b)
  | .update a b => .word (dpWordOf 5 a b)
  | .send n b => .word (dpWordOf 6 n b)

/-! ## Queue records -/

/-- A queue record (R95): byte 0 the command tag, bytes 1 to 3 the argument bytes in wire order, 0 after the last one. -/
def recordOf (tag a1 a2 a3 : Byte) : Word := packBytes a3 a2 a1 tag

/-- The command a record stands for, from its tag and argument bytes (R95, R96): the six pushed kinds, and ProbeDevice's, which
only `rx_cmd` shows. -/
def decodeRecord (w : Word) : Option Instr :=
  let tag := byteOf w 0
  if tag = 0x01 then some .probeDevice
  else if tag = 0x20 then some .getTemp
  else if tag = 0x30 then some .getFanRpm
  else if tag = 0x31 then some (.getFanPwm (byteOf w 1))
  else if tag = 0x32 then some (.setFanPwm (byteOf w 1) (byteOf w 2))
  else if tag = 0x40 then some (.eeReadByte (byteOf w 1) (byteOf w 2))
  else if tag = 0x41 then some (.eeWriteByte (byteOf w 1) (byteOf w 2) (byteOf w 3))
  else none

/-! ## The opcode table's numbering -/

/-- The whole request frame of a table row: the table numbers bytes 0..2 as a 24-bit big-endian value {start, length, command};
the argument bytes, which the table gives no bits, are 0, and the trailer is what the table's row says it is, the CRC of the
bytes before it (log 7). A length byte outside 2..5 gets no argument bytes and the decoder refuses it. -/
def tableFrame (cfg : Config) (w : Nat) : List Byte :=
  let b0 : Byte := BitVec.ofNat 8 (w / 0x10000)
  let b1 : Byte := BitVec.ofNat 8 (w / 0x100)
  let b2 : Byte := BitVec.ofNat 8 w
  let args : Nat := if cfg.rxLenMin ≤ b1.toNat ∧ b1.toNat ≤ cfg.rxLenMax then b1.toNat - 2 else 0
  let body := [b0, b1, b2] ++ List.replicate args 0
  body ++ [Machine.crc8 cfg body]

/-- What the decoder reads from an instruction numbered as spec/opcode_table.json numbers it: 24 bits for a request frame, 32 for
a dispatch word, with the literals of this hardware. -/
def decodeTableWord (nbits w : Nat) : Option Instr :=
  if nbits = 24 then (decode Config.reference (.frame (tableFrame Config.reference w))).toOption
  else if nbits = 32 then (decode Config.reference (.word (BitVec.ofNat 32 w))).toOption
  else none

end Sys2Proof
end

