-- ==== Sys2Proof/Machine/Requests.lean ====
section
/-! DEFINITION. The meanings of the seven request frames (41_frame_receiver.md R146 to R150): what phase P3 does once the frame is
decoded. Each shows its record on `rx_cmd` (R153); all but ProbeDevice hand it to phase P5's push. -/

namespace Sys2Proof.Machine

/-- Show a record and hand it to the push of phase P5 (R146). -/
def enqueue (rec : Word) (s : State) : State := requestPush rec (announce rec s)

/-- ProbeDevice (R147): the queue is bypassed. -/
def execProbeDevice (s : State) : Result State := .next (probeRequest (announce (recordOf 0x01 0 0 0) s))

/-- GetTemp (R148). -/
def execGetTemp (s : State) : Result State := .next (enqueue (recordOf 0x20 0 0 0) s)

/-- GetFanRpm (R148). -/
def execGetFanRpm (s : State) : Result State := .next (enqueue (recordOf 0x30 0 0 0) s)

/-- GetFanPwm (R149): the channel is not range-checked here. -/
def execGetFanPwm (channel : Byte) (s : State) : Result State := .next (enqueue (recordOf 0x31 channel 0 0) s)

/-- SetFanPwm (R150): channel and pwm are carried unchanged. -/
def execSetFanPwm (channel pwm : Byte) (s : State) : Result State := .next (enqueue (recordOf 0x32 channel pwm 0) s)

/-- EEReadByte (R149). -/
def execEeReadByte (addrH addrL : Byte) (s : State) : Result State := .next (enqueue (recordOf 0x40 addrH addrL 0) s)

/-- EEWriteByte (R150). -/
def execEeWriteByte (addrH addrL value : Byte) (s : State) : Result State :=
  .next (enqueue (recordOf 0x41 addrH addrL value) s)

end Sys2Proof.Machine
end

