-- ==== Sys2Proof/Machine/Dispatch.lean ====
section
/-! DEFINITION. One arm per constructor of Instr. -/

namespace Sys2Proof.Machine

def exec (i : Instr) (s : State) : Host.Outcome State Fault Refusal :=
  match i with
  | .probeDevice => Sys2Proof.Machine.execProbeDevice s
  | .getTemp => Sys2Proof.Machine.execGetTemp s
  | .getFanRpm => Sys2Proof.Machine.execGetFanRpm s
  | .getFanPwm channel => Sys2Proof.Machine.execGetFanPwm channel s
  | .setFanPwm channel pwm => Sys2Proof.Machine.execSetFanPwm channel pwm s
  | .eeReadByte addrH addrL => Sys2Proof.Machine.execEeReadByte addrH addrL s
  | .eeWriteByte addrH addrL value => Sys2Proof.Machine.execEeWriteByte addrH addrL value s
  | .nop a b => Sys2Proof.Machine.execNop a b s
  | .qpop a b => Sys2Proof.Machine.execQpop a b s
  | .setpwm channel percent => Sys2Proof.Machine.execSetpwm channel percent s
  | .getpwm channel b => Sys2Proof.Machine.execGetpwm channel b s
  | .getrpm channel b => Sys2Proof.Machine.execGetrpm channel b s
  | .update a b => Sys2Proof.Machine.execUpdate a b s
  | .send n b => Sys2Proof.Machine.execSend n b s

end Sys2Proof.Machine
end

