-- ==== Sys2Proof/Machine/Receiver.lean ====
section
/-! DEFINITION. The frame receiver, phase P3 (41_frame_receiver.md R140 to R146, R151, R152). It answers the state and, in the step
that completes a valid frame, the instruction decoded from it; the step then runs that instruction's meaning. -/

namespace Sys2Proof.Machine

/-- `stall_check()` (R145): strict, from the start byte's time, with or without a byte. -/
def stallCheck (s : State) : State :=
  if s.rx.state ≠ .idle ∧ s.cfg.stallTimeoutMs < elapsed s s.rx.start then toIdle (raise .frameTimeout s) else s

/-- `rx_idle(b)` (R141). -/
def rxIdle (b : Byte) (s : State) : State :=
  if b = s.cfg.rxStartByte then
    { s with rx := { state := .awaitLen, remaining := 0, count := 1, buf := wrAt s.rx.buf 0 s.cfg.rxStartByte, start := s.msClock } }
  else s

/-- `rx_len(b)` (R142): an out-of-range byte is consumed and not looked at again. -/
def rxLen (b : Byte) (s : State) : State :=
  if s.cfg.rxLenMin ≤ b.toNat ∧ b.toNat ≤ s.cfg.rxLenMax then
    { s with rx := { s.rx with state := .awaitPayload, remaining := b.setWidth 3, count := 2, buf := wrAt s.rx.buf 1 b } }
  else toIdle (raise .invalidLength s)

/-- `rx_payload(b)` before the trailer test (R143): store the byte, count it, one fewer to come. -/
def storeByte (b : Byte) (s : State) : State :=
  { s with rx := { s.rx with
      buf := wrAt s.rx.buf s.rx.count.toNat b, count := s.rx.count + 1, remaining := s.rx.remaining - 1 } }

/-- `rx_trailer()` and `rx_decode(L)` (R144, R146): the bytes received are tested for their CRC, a known command and the command's
length, in that order, and the receiver goes to IDLE whatever comes out. They always form a frame of L + 2 bytes from 0xAA
(R48(c), (d)); in a state where they do not, the check would read bytes that were never stored, and the model faults (log 8). -/
def rxTrailer (s : State) : Result (State × Option Instr) :=
  match decodeFrame s.cfg (receivedBytes s.rx) with
  | .ok i => .next (toIdle s, some i)
  | .error .crcMismatch => .next (toIdle (raise .crcMismatch s), none)
  | .error .unknownCommand => .next (toIdle (raise .unknownCommand s), none)
  | .error .lengthMismatch => .next (toIdle (raise .lengthMismatch s), none)
  | .error .badStart => .fault .rxFrameShape
  | .error .invalidLength => .fault .rxFrameShape
  | .error .badExtent => .fault .rxFrameShape

/-- `rx_payload(b)` (R143). -/
def rxPayload (b : Byte) (s : State) : Result (State × Option Instr) :=
  if s.rx.count.toNat < s.cfg.rxBufBytes then
    let s := storeByte b s
    if s.rx.remaining = 0 then rxTrailer s else .next (s, none)
  else .fault .rxBufferIndex

/-- The byte transitions (R140): one `feed`. -/
def rxByte (b : Byte) (s : State) : Result (State × Option Instr) :=
  match s.rx.state with
  | .idle => .next (rxIdle b s, none)
  | .awaitLen => .next (rxLen b s, none)
  | .awaitPayload => rxPayload b s
  | .reserved => .fault .reservedRxState

/-- Phase P3 (R140): the stall check, then the byte if there is one. RX_STATE = 3 faults (U8). -/
def receivePhase (s : State) : Result (State × Option Instr) :=
  if s.rx.state = .reserved then .fault .reservedRxState
  else
    let s := stallCheck s
    if s.inp.rxValid then rxByte s.inp.rxData s else .next (s, none)

end Sys2Proof.Machine
end

