-- ==== Sys2Proof/Machine/Sender.lean ====
section
/-! DEFINITION. The frame sender's part of phase P7 (45_frame_sender.md R224 to R229). -/

namespace Sys2Proof.Machine

/-- A pending probe reply begins in any P7 that finds TX_STATE IDLE or SPACE (R224, R225). -/
def startProbe (s : State) : State :=
  if (s.tx.state = .idle ∨ s.tx.state = .space) ∧ s.tx.probePending ≠ 0 then
    let s := beginFrame (probePayload s.cfg) s
    { s with tx := { s.tx with probePending := s.tx.probePending - 1 } }
  else s

/-- The spacing ends at the first P7 with `elapsed(TX_SPACE_START) >= SPACING_MS` (R227). -/
def endSpacing (s : State) : State :=
  if s.tx.state = .space ∧ s.cfg.spacingMs ≤ elapsed s s.tx.spaceStart then
    { s with tx := { s.tx with state := .idle } }
  else s

/-- `emit_step()` (R226): offer TX_BUF[TX_IDX]; if the UART takes it go on, and after the last byte start the spacing now. -/
def emitByte (s : State) : State :=
  let s := { s with out := { s.out with txValid := true, txData := s.tx.buf.getD s.tx.idx.toNat 0 } }
  if s.inp.txReady then
    if s.tx.idx + 1 = s.tx.len then
      { s with tx := { s.tx with idx := s.tx.idx + 1, state := .space, spaceStart := s.msClock } }
    else { s with tx := { s.tx with idx := s.tx.idx + 1 } }
  else s

/-- `tx_busy` as the sender leaves it (R229). -/
def showBusy (s : State) : State := { s with out := { s.out with txBusy := senderBusy s } }

/-- The sender part of phase P7 (R224). TX_STATE = 3, and an emission whose TX_IDX is not below TX_LEN or not in TX_BUF, are
unreachable and fault (U7, U8, R48; log 8). -/
def senderPhase (s : State) : Result State :=
  if s.tx.state = .reserved then .fault .reservedTxState
  else
    let s := endSpacing (startProbe s)
    if s.tx.state = .emit then
      if s.tx.idx.toNat < s.tx.len.toNat ∧ s.tx.idx.toNat < s.tx.buf.length then .next (showBusy (emitByte s))
      else .fault .txBufferIndex
    else .next (showBusy s)

end Sys2Proof.Machine
end

