-- ==== Sys2Proof/Machine/Waveform.lean ====
section
/-! DEFINITION. The PWM timer and its pins, the last part of phase P7 (43_fan_pwm.md R185 to R188). -/

namespace Sys2Proof.Machine

/-- The compare output of R187 for an active compare value. -/
def pinHigh (p : Pwm) (dutyActive : Half) : Bool :=
  match p.dir with
  | .up => decide (p.cnt.toNat < dutyActive.toNat)
  | .down => decide (p.cnt.toNat ≤ dutyActive.toNat ∧ 1 ≤ p.cnt.toNat)

/-- `pwm_pin[c]`: R187 on an active channel, any value on an inactive one (R188): the draw. -/
def pinLevels (cfg : Config) (p : Pwm) (draw : PerFan Bool) : PerFan Bool :=
  perFan fun c => if channelActive cfg c.val then pinHigh p p.dutyActive[c] else draw[c]

/-- `load_active()` (R185): DUTY_ACTIVE takes DUTY on every active channel. -/
def loadActive (cfg : Config) (p : Pwm) : Pwm :=
  { p with dutyActive := perFan fun c => if channelActive cfg c.val then p.duty[c] else p.dutyActive[c] }

/-- `pwm_count()` (R186): up from 0 to TIMER_TOP and back down. UP at 65535 and DOWN at 0, where R186's count does not fit R33's 16 bits
and which no run reaches, it keeps the low 16 bits (DESIGN CHOICE, log 9). -/
def pwmCount (cfg : Config) (p : Pwm) : Pwm :=
  match p.dir with
  | .up =>
    if p.cnt.toNat = cfg.timerTop - 1 then
      loadActive cfg { p with cnt := BitVec.ofNat 16 cfg.timerTop, dir := .down }
    else { p with cnt := p.cnt + 1 }
  | .down =>
    if p.cnt = 1 then { p with cnt := 0, dir := .up }
    else { p with cnt := p.cnt - 1 }

/-- The PWM part of phase P7: the pins from the values before this step's count (R186), then the count. -/
def pwmPhase (s : State) : State :=
  { s with
    out := { s.out with pwmPin := pinLevels s.cfg s.pwm s.inp.pinDraw }
    pwm := pwmCount s.cfg s.pwm }

end Sys2Proof.Machine
end

