-- ==== Sys2Proof/Machine/Phases.lean ====
section
/-! DEFINITION. The remaining phases of a step (00_scope.md R10): sampling, P0 reset, P1 clock, P2 edges, the decoding of P4's
dispatch word, P5 push, P6 pulse counting. -/

namespace Sys2Proof.Machine

/-- Sample every input once (R9) and set the outputs to their idle values (R10); `tx_data`, for which no rule gives one, takes the
step's draw (DESIGN CHOICE, log 21). -/
def beginStep (s : State) : State :=
  { s with
    inp := nextInputs s
    script := s.script.tail
    stepNo := s.stepNo + 1
    out := { Outputs.idle with txData := (nextInputs s).txDataDraw }
    wires := Wires.idle }

/-- Phase P0 (R280): every register takes its reset value, the pins are R187 on those values, and the step ends. The
configuration is not touched (R46, R281). -/
def resetPhase (s : State) : State :=
  let r := State.afterReset s.cfg
  { r with
    inp := s.inp
    script := s.script
    stepNo := s.stepNo
    out := { r.out with pwmPin := pinLevels s.cfg r.pwm s.inp.pinDraw } }

/-- Phase P1 (R22). -/
def clockPhase (s : State) : State :=
  if s.inp.tick1ms then { s with msClock := s.msClock + 1 } else s

/-- Phase P2 (R200): a falling edge on an active channel; the level is kept for the next step. -/
def edgePhase (s : State) : State :=
  { s with
    wires := { s.wires with
      edge := perFan fun c => s.tach.prev[c] && !s.inp.tach[c] && channelActive s.cfg c.val }
    tach := { s.tach with prev := s.inp.tach } }

/-- The front of phase P4 (R100, R101, R106): with `dp_valid` = 1 the word is decoded, and an illegal one responds ILLEGAL with
ILLEGAL_OP and changes nothing; a legal one's meaning is run by the step. -/
def dispatchFetch (s : State) : State × Option Instr :=
  if s.inp.dpValid then
    match decodeWord s.inp.dpWord with
    | .ok i => (s, some i)
    | .error _ => (respond .illegal 0 (raise .illegalOp s), none)
  else (s, none)

/-- `q_count` as phase P5 leaves it (R99). -/
def showCount (s : State) : State := { s with out := { s.out with qCount := s.q.count } }

/-- The push of a record (R170): append it, or drop it with QUEUE_OVERFLOW when the queue is full (R172). -/
def pushRecord (rec : Word) (s : State) : State :=
  if s.q.count.toNat < s.cfg.queueCap then { s with q := s.q.pushed s.cfg rec } else raise .queueOverflow s

/-- Phase P5 (R170): push this step's record, if the receiver produced one, and show `q_count`. -/
def pushPhase (s : State) : State :=
  match s.wires.push with
  | none => showCount s
  | some rec => showCount (pushRecord rec { s with wires := { s.wires with push := none } })

/-- Phase P6 (R201): count the edges of P2 that no capture consumed; nothing is carried to a later step (R263). -/
def countPhase (s : State) : State :=
  { s with
    tach := { s.tach with
      pulse := perFan fun c => if s.wires.edge[c] && !s.wires.consumed[c] then s.tach.pulse[c] + 1 else s.tach.pulse[c] }
    wires := Wires.idle }

/-- Phases P0's sampling to P2: what runs before the receiver. -/
def frontPhases (s : State) : State := edgePhase (clockPhase (beginStep s))

/-- Phases P5 to P7: what runs after the dispatch operation. -/
def backPhases (s : State) : Result State :=
  andThen (senderPhase (countPhase (pushPhase s))) fun s => .next (pwmPhase s)

end Sys2Proof.Machine
end

