-- ==== Sys2Proof/Machine/Fetch.lean ====
section
/-! DEFINITION. How one instruction is placed where the next step takes its instruction from: the dispatch port, or the receiver
about to get a frame's last byte (log 6). -/

namespace Sys2Proof.Machine

/-- A step's inputs with nothing but defaults (R111); the draws stay the environment's. -/
def placedInputs (s : State) : Inputs :=
  { Inputs.quiet with
    captureDraw := (Config.envInputs s.stepNo).captureDraw
    pinDraw := (Config.envInputs s.stepNo).pinDraw
    txDataDraw := (Config.envInputs s.stepNo).txDataDraw
    txLenDraw := (Config.envInputs s.stepNo).txLenDraw
    probePendingDraw := (Config.envInputs s.stepNo).probePendingDraw }

/-- The next step gets this dispatch word. -/
def placeWord (w : Word) (s : State) : State :=
  { s with script := { placedInputs s with dpValid := true, dpWord := w } :: s.script }

/-- The next step gets this byte on the RX port. -/
def placeByte (b : Byte) (s : State) : State :=
  { s with script := { placedInputs s with rxValid := true, rxData := b } :: s.script }

/-- RX_BUF with these bytes from index 0. -/
def bufferWith (bytes : List Byte) : Vector Byte Extent.rxBuf := Vector.ofFn fun i => bytes.getD i.val 0

/-- The receiver has just stored all of a frame but its last byte, without time passing, and the next step gets that byte. Bytes
that cannot be a frame are placed as far as the receiver would take them: a bad start byte in IDLE, a bad length byte in
AWAIT_LEN. -/
def placeFrame (bytes : List Byte) (s : State) : State :=
  let start := bytes.getD 0 0
  let len := bytes.getD 1 0
  if start ≠ s.cfg.rxStartByte then
    placeByte start { s with rx := { s.rx with state := .idle, remaining := 0, count := 0 } }
  else if len.toNat < s.cfg.rxLenMin ∨ s.cfg.rxLenMax < len.toNat then
    placeByte len { s with rx :=
      { state := .awaitLen, remaining := 0, count := 1, buf := bufferWith [start], start := s.msClock } }
  else
    placeByte (bytes.getD (len.toNat + 1) 0) { s with rx :=
      { state := .awaitPayload, remaining := 1, count := BitVec.ofNat 3 (len.toNat + 1)
        buf := bufferWith (bytes.take (len.toNat + 1)), start := s.msClock } }

/-- The instruction with these bits, numbered as the opcode table numbers them (log 7), placed for the next step. -/
def placeTableWord (nbits w : Nat) (s : State) : State :=
  if nbits = 24 then placeFrame (tableFrame s.cfg w) s
  else if nbits = 32 then placeWord (BitVec.ofNat 32 w) s
  else s

end Sys2Proof.Machine
end

