-- ==== Sys2Proof/Machine/Step.lean ====
section
/-! DEFINITION. One step: phases P0 to P7 (00_scope.md R10) with exec for the instruction the receiver decoded (P3) and the one
the dispatch port carried (P4). -/

namespace Sys2Proof.Machine

/-- Run the instruction of a phase, if it has one. -/
def runDecoded (i : Option Instr) (s : State) : Host.Outcome State Fault Refusal :=
  match i with
  | some i => exec i s
  | none => .next s

/-- Phase P4 and the phases after it. -/
def dispatchOnward (s : State) : Host.Outcome State Fault Refusal :=
  andThen (runDecoded (dispatchFetch s).2 (dispatchFetch s).1) backPhases

/-- One step (R10). A configuration outside R6 is refused (R11). -/
def step (s : State) : Host.Outcome State Fault Refusal :=
  if s.cfg.valid then
    if (nextInputs s).rst then .next (resetPhase (beginStep s))
    else
      andThen (receivePhase (frontPhases s)) fun r =>
        andThen (runDecoded r.2 r.1) dispatchOnward
  else .refused .badConfiguration

/-- The instruction with these bits placed where the next step takes it from (log 6). -/
def State.withFetchWord (s : State) (nbits w : Nat) : State := placeTableWord nbits w s

end Sys2Proof.Machine
end

