-- ==== Sys2Proof/Machine/DispatchLoop.lean ====
section
/-! DEFINITION. The external dispatch loop as a separate agent that follows the contract of 46_dispatch_contract.md (R240 to R250),
and the block closed with it. It is the block's environment, not the block (00_scope.md R4): nothing of `step` depends on it. The
contract fixes what it does with a record; when it polls and when it issues UPDATE is this agent's choice (log 19). -/

namespace Sys2Proof.Machine

/-! ## The replies of R242 to R247 -/

/-- `v[15:8]`, `v[7:0]`: a 16-bit field of a reply, high byte first (R72, R110). -/
def bigEndian (v : Half) : List Byte := [v.extractLsb' 8 8, v.extractLsb' 0 8]

/-- GetTemp (R242): four slots, those at or above TEMP_COUNT 0x0000. Temperatures are 16-bit two's complement (GK5, log 17). -/
def replyGetTemp (cfg : Config) (temperature : Vector Half 4) : List Byte :=
  [0x20, BitVec.ofNat 8 cfg.tempCount] ++
    ((List.range 4).map fun i => bigEndian (if i < cfg.tempCount then rdAt temperature i 0 else 0)).flatten

/-- GetFanRpm (R243): two slots. -/
def replyGetFanRpm (cfg : Config) (r0 r1 : Half) : List Byte :=
  [0x30, BitVec.ofNat 8 cfg.fanCount] ++ bigEndian r0 ++ bigEndian r1

/-- GetFanPwm (R244): the channel as received. -/
def replyGetFanPwm (channel percent : Byte) : List Byte := [0x31, channel, percent]

/-- SetFanPwm (R245): the tag, or the Error byte when SETPWM failed. -/
def replySetFanPwm (ok : Bool) : List Byte := if ok then [0x32] else [errorTag]

/-- EEReadByte (R246): valueCount 1 and the value. -/
def replyEeReadByte (value : Byte) : List Byte := [0x40, 0x01, value]

/-- EEWriteByte (R247): the tag, or the Error byte when the write failed. -/
def replyEeWriteByte (ok : Bool) : List Byte := if ok then [0x41] else [errorTag]

/-! ## The agent -/

/-- What the collaborators answer in a step (R242, R246, R247): any value (93_implementation_defined.md U20). -/
structure Collaborators where
  /-- `temperature(i)`. -/
  temperature : Vector Half 4
  /-- `readByte({addrH, addrL})`. -/
  readByte : Byte
  /-- `writeByte({addrH, addrL}, value)` succeeded. -/
  writeOk : Bool
deriving DecidableEq, Repr

/-- What the loop asks of the storage collaborator in a step (R71, R246, R247). -/
inductive StorageRequest where
  | none
  | read (address : Half)
  | write (address : Half) (value : Byte)
deriving DecidableEq, Repr

/-- Where the loop is in serving a record (R240). -/
inductive LoopState where
  /-- Pop the next record. -/
  | poll
  /-- Issue UPDATE (R250(c)). -/
  | update
  /-- GETRPM 0, for a GetFanRpm record. -/
  | rpmFirst
  /-- GETRPM 1, with r0 known. -/
  | rpmSecond (r0 : Half)
  /-- GETPWM, for a GetFanPwm record. -/
  | getPwm (channel : Byte)
  /-- SETPWM, for a SetFanPwm record. -/
  | setPwm (channel percent : Byte)
  /-- Wait until `tx_busy` = 0 before the reply is sent (R249), issuing UPDATE (R250(c)). -/
  | await (payload : List Byte)
  /-- SEND the reply (R240). -/
  | reply (payload : List Byte)
deriving DecidableEq, Repr

/-- The one dispatch word the loop drives in a step (R250(a)). While it waits that is UPDATE, so that a long wait does not keep the RPM
window open (R250(c)): R240 forbids only another SEND and another QPOP before the reply is sent. -/
def LoopState.word : LoopState → Word
  | .poll => dpWordOf 1 0 0
  | .update => dpWordOf 5 0 0
  | .rpmFirst => dpWordOf 4 0 0
  | .rpmSecond _ => dpWordOf 4 1 0
  | .getPwm channel => dpWordOf 3 channel 0
  | .setPwm channel percent => dpWordOf 2 channel percent
  | .await _ => dpWordOf 5 0 0
  | .reply payload => dpWordOf 6 (BitVec.ofNat 8 payload.length) 0

/-- The payload lanes the loop drives: the reply's bytes, the lanes after them 0. -/
def LoopState.lanes (cfg : Config) : LoopState → List Byte
  | .reply payload => payload ++ List.replicate (cfg.txPayloadMax - payload.length) 0
  | _ => List.replicate cfg.txPayloadMax 0

/-- "(wait until tx_busy = 0)" before the SEND (R249): the reply is sent in the next step if the last one showed `tx_busy` = 0. -/
def sendWhenIdle (o : Outputs) (payload : List Byte) : LoopState := if o.txBusy then .await payload else .reply payload

/-- What to do with a popped record (R242 to R247). A record of another kind is never popped (R248) and is not answered. -/
def serveRecord (cfg : Config) (o : Outputs) (co : Collaborators) : LoopState :=
  match decodeRecord o.dpData with
  | some .getTemp => sendWhenIdle o (replyGetTemp cfg co.temperature)
  | some .getFanRpm => .rpmFirst
  | some (.getFanPwm channel) => .getPwm channel
  | some (.setFanPwm channel percent) => .setPwm channel percent
  | some (.eeReadByte _ _) => sendWhenIdle o (replyEeReadByte co.readByte)
  | some (.eeWriteByte _ _ _) => sendWhenIdle o (replyEeWriteByte co.writeOk)
  | _ => .update

/-- The storage access a popped record asks for (R71, R246, R247). -/
def storageRequest (l : LoopState) (o : Outputs) : StorageRequest :=
  match l, o.dpStatus, decodeRecord o.dpData with
  | .poll, .ok, some (.eeReadByte addrH addrL) => .read (eeAddress addrH addrL)
  | .poll, .ok, some (.eeWriteByte addrH addrL value) => .write (eeAddress addrH addrL) value
  | _, _, _ => .none

/-- The loop's next state from the block's outputs and the collaborators' answers (R240, R249). A reply waits until `tx_busy` = 0,
and one whose SEND does not respond OK waits again and is sent in a later step; one UPDATE is issued between two polls. -/
def LoopState.next (cfg : Config) (l : LoopState) (o : Outputs) (co : Collaborators) : LoopState :=
  match l with
  | .poll => if o.dpStatus = .ok then serveRecord cfg o co else .update
  | .update => .poll
  | .rpmFirst => .rpmSecond (o.dpData.setWidth 16)
  | .rpmSecond r0 => sendWhenIdle o (replyGetFanRpm cfg r0 (o.dpData.setWidth 16))
  | .getPwm channel => sendWhenIdle o (replyGetFanPwm channel (o.dpData.setWidth 8))
  | .setPwm _ _ => sendWhenIdle o (replySetFanPwm (decide (o.dpStatus = .ok)))
  | .await payload => sendWhenIdle o payload
  | .reply payload => if o.dpStatus = .ok then .update else .await payload

/-! ## The block closed with the loop -/

/-- The block and its dispatch loop. -/
structure System where
  loop : LoopState
  block : State
deriving DecidableEq, Repr

/-- The block's next inputs with the dispatch port driven by the loop; every other input is as it was. -/
def driveLoop (sys : System) : State :=
  { sys.block with script :=
      { nextInputs sys.block with
        dpValid := true
        dpWord := sys.loop.word
        dpPayload := sys.loop.lanes sys.block.cfg } :: sys.block.script.tail }

/-- One step of both. In a reset step the block answers nothing (R280) and the loop starts again. -/
def systemStep (co : Collaborators) (sys : System) : Result System :=
  andThen (step (driveLoop sys)) fun s =>
    .next { loop := if s.inp.rst then .poll else sys.loop.next s.cfg s.out co, block := s }

end Sys2Proof.Machine
end

