-- ==== Sys2Proof/Machine/Environment.lean ====
section
/-! DEFINITION. What 46_dispatch_contract.md R250 asks of the block's other agents, the UART and the 1 ms strobe, over a run. They are
assumptions about the environment: `step` admits every input (00_scope.md R8, R9), and a claim that needs one of them names it. -/

namespace Sys2Proof.Machine

/-- A run of the block under an environment that gives step n its inputs and draws (R9). -/
def IsRun (env : Nat → Inputs) (run : Nat → State) : Prop :=
  ∀ n, step { run n with script := [env n] } = .next (run (n + 1))

/-- "the UART asserts `tx_ready` infinitely often while `tx_valid` = 1" (R250, R288): read as: a byte offered in step n is met by a
`tx_ready` in that step or a later one (DEDUCED, log 22). -/
def UartIsFair (env : Nat → Inputs) (run : Nat → State) : Prop :=
  ∀ n, (run (n + 1)).out.txValid = true → ∃ m, n ≤ m ∧ (env m).txReady = true

/-- CLK_HZ / 1000, the number of steps in a millisecond (R250), truncated as R7 says. -/
def stepsPerMs (cfg : Config) : Nat := cfg.clkHz / 1000

/-- "`tick_1ms` is 1 in exactly one step out of every CLK_HZ / 1000 steps" (R250), read of every stretch of that many steps (DEDUCED,
log 22). -/
def TicksEachMillisecond (cfg : Config) (env : Nat → Inputs) : Prop :=
  ∀ n, ∃ k, k < stepsPerMs cfg ∧ (env (n + k)).tick1ms = true ∧
    ∀ j, j < stepsPerMs cfg → (env (n + j)).tick1ms = true → j = k

end Sys2Proof.Machine
end

