-- ==== Sys2Proof/Safety.lean ====
section
/-! DEFINITION. What holds in every state reachable from reset: the invariants of 10_state.md R48 and R47, strengthened to what
one step keeps. -/

namespace Sys2Proof.Safety

open Sys2Proof.Machine

/-- R48(a) to (d), for the receiver. RX_BUF[0] = 0xAA is stated in AWAIT_PAYLOAD too, where R48(c) states it in AWAIT_LEN. -/
def RxInv (cfg : Config) (r : Rx) : Prop :=
  match r.state with
  | .idle => r.count = 0 ∧ r.remaining = 0
  | .awaitLen => r.count = 1 ∧ r.remaining = 0 ∧ rdAt r.buf 0 0 = cfg.rxStartByte
  | .awaitPayload =>
    rdAt r.buf 0 0 = cfg.rxStartByte ∧
    cfg.rxLenMin ≤ (rdAt r.buf 1 0).toNat ∧ (rdAt r.buf 1 0).toNat ≤ cfg.rxLenMax ∧
    1 ≤ r.remaining.toNat ∧ r.remaining.toNat ≤ (rdAt r.buf 1 0).toNat ∧
    r.count.toNat + r.remaining.toNat = (rdAt r.buf 1 0).toNat + 2
  | .reserved => False

/-- R48(e). -/
def QueueInv (cfg : Config) (q : Queue) : Prop := q.count.toNat ≤ cfg.queueCap ∧ q.head.toNat < cfg.queueCap

/-- R48(g) and (h); the count stays below TIMER_TOP going up and above 0 going down, which is what R186 keeps. -/
def PwmInv (cfg : Config) (p : Pwm) : Prop :=
  (∀ c : Fin Extent.fans, c.val < cfg.fanCount →
    p.duty[c].toNat ≤ cfg.timerTop ∧ p.dutyActive[c].toNat ≤ cfg.timerTop) ∧
  (match p.dir with
    | .up => p.cnt.toNat < cfg.timerTop
    | .down => 1 ≤ p.cnt.toNat ∧ p.cnt.toNat ≤ cfg.timerTop)

/-- R47: an inactive channel's PULSE and LAST_RPM stay 0. -/
def TachInv (cfg : Config) (t : Tach) : Prop :=
  ∀ c : Fin Extent.fans, cfg.fanCount ≤ c.val → t.pulse[c] = 0 ∧ t.lastRpm[c] = 0

/-- R48(a), (f), (i), and TX_BUF has TX_BUF_BYTES bytes (R40). -/
def TxInv (cfg : Config) (t : Tx) : Prop :=
  t.state ≠ .reserved ∧
  (t.state = .emit → 3 ≤ t.len.toNat ∧ t.len.toNat ≤ cfg.txBufBytes ∧ t.idx.toNat < t.len.toNat) ∧
  t.probePending.toNat ≤ cfg.probePendingMax ∧
  t.buf.length = cfg.txBufBytes

/-- The invariant of R48 over a legal configuration. -/
structure Inv (s : State) : Prop where
  cfg : s.cfg.valid = true
  rx : RxInv s.cfg s.rx
  queue : QueueInv s.cfg s.q
  pwm : PwmInv s.cfg s.pwm
  tach : TachInv s.cfg s.tach
  tx : TxInv s.cfg s.tx

/-- What is in TX_BUF while it is emitted begins with a whole reply frame (R97): 0xC5, its length byte, the payload, and a last byte
that is the CRC of the ones before it; and TX_LEN is that frame's length, whenever R41's 5 bits hold it (log 10). -/
def EmitsReplyFrame (cfg : Config) (t : Tx) : Prop :=
  t.state = .emit → ∃ payload : List Byte,
    t.buf.take (payload.length + 3) = replyFrame cfg payload ∧
    (payload.length + 3 < 32 → t.len.toNat = payload.length + 3)

/-- A record the receiver can push (R96, R248): one of six kinds, its unused bytes 0. -/
def PushedRecord (w : Word) : Prop :=
  w = recordOf 0x20 0 0 0 ∨ w = recordOf 0x30 0 0 0 ∨
  (∃ channel, w = recordOf 0x31 channel 0 0) ∨
  (∃ channel pwm, w = recordOf 0x32 channel pwm 0) ∨
  (∃ addrH addrL, w = recordOf 0x40 addrH addrL 0) ∨
  (∃ addrH addrL value, w = recordOf 0x41 addrH addrL value)

/-- Every queued record is one the receiver can push (R248). -/
def QueueHoldsRecords (cfg : Config) (q : Queue) : Prop := ∀ w ∈ queueContents cfg q, PushedRecord w

end Sys2Proof.Safety
end

