-- ==== Sys2Proof/Certificates/Slice0/Obligations.lean ====
section
/-! DEFINITION. What is claimed of the model, from the numbered rules of spec/. A claim about a next state spells it out as the
state before with the fields the rule writes, so that it states the frame too. -/

open Sys2Proof Sys2Proof.Machine Sys2Proof.Safety

namespace Sys2Proof.Claims

/-- The last step's dispatch-port response replaced (R101). -/
def responded (o : Outputs) (status : DpStatus) (data : Word) : Outputs :=
  { o with dpRespValid := true, dpStatus := status, dpData := data }

/-- Error bits added to this step's `err_flags` (R260). -/
def flagged (o : Outputs) (bits : BitVec 16) : Outputs := { o with errFlags := o.errFlags ||| bits }

/-- The receiver in IDLE with RX_BUF and RX_START kept (R140). -/
def inIdle (r : Rx) : Rx := { r with state := .idle, count := 0, remaining := 0 }

/-- The receiver just after a start byte 0xAA at time `now` (R141). -/
def afterStart (r : Rx) (now : Word) : Rx :=
  { state := .awaitLen, remaining := 0, count := 1, buf := r.buf.set 0 0xAA, start := now }

/-- The bytes of a request frame before its trailer (R90): start, length, command, arguments. -/
def frameBody (cmd : Byte) (args : List Byte) : List Byte := [0xAA, BitVec.ofNat 8 (args.length + 2), cmd] ++ args

/-- The record of a command (R96), its bytes from the least significant up: the tag, then the arguments; the rest is 0. A dispatch
operation has none. -/
def commandRecord : Instr → Nat
  | .probeDevice => 0x01
  | .getTemp => 0x20
  | .getFanRpm => 0x30
  | .getFanPwm channel => 0x31 + 256 * channel.toNat
  | .setFanPwm channel pwm => 0x32 + 256 * channel.toNat + 65536 * pwm.toNat
  | .eeReadByte addrH addrL => 0x40 + 256 * addrH.toNat + 65536 * addrL.toNat
  | .eeWriteByte addrH addrL value => 0x41 + 256 * addrH.toNat + 65536 * addrL.toNat + 16777216 * value.toNat
  | .nop _ _ | .qpop _ _ | .setpwm _ _ | .getpwm _ _ | .getrpm _ _ | .update _ _ | .send _ _ => 0

/-- The record of a request as the 32-bit word on `rx_cmd` and in the queue (R95, R96). -/
def recordWord (i : Instr) : Word := BitVec.ofNat 32 (commandRecord i)

/-- The request shows its record on `rx_cmd` and hands it to the push, and changes nothing else. -/
def ShowsAndPushes (i : Instr) : Prop :=
  ∀ s : State, exec i s = .next { s with
    out := { s.out with rxCmdValid := true, rxCmd := recordWord i }
    wires := { s.wires with push := some (recordWord i) } }

/-- The dispatch port carries a word that decodes to this instruction in the next step (R100). -/
def DispatchesNext (s : State) (i : Instr) : Prop :=
  (nextInputs s).dpValid = true ∧ decodeWord (nextInputs s).dpWord = .ok i

/-- The receiver decodes this instruction in the next step (R146). -/
def DecodesNext (s : State) (i : Instr) : Prop := ∃ u, receivePhase (frontPhases s) = .next (u, some i)

/-- A falling edge on an active channel in the next step (R200). -/
def FallingEdgeNext (s : State) (c : Fin Extent.fans) : Prop :=
  c.val < s.cfg.fanCount ∧ s.tach.prev[c] = true ∧ (nextInputs s).tach[c] = false

/-- One `feed` at a given time (R140): the receiver phase with this byte on the RX port. -/
def feedByte (bt : Byte × Word) (s : State) : Result (State × Option Instr) :=
  receivePhase { s with msClock := bt.2, inp := { s.inp with rxValid := true, rxData := bt.1 } }

/-- Feeding bytes one after another, each at its time; the instructions decoded on the way are collected in order. -/
def feedAll : List (Byte × Word) → State → Result (State × List Instr)
  | [], s => .next (s, [])
  | bt :: rest, s =>
    andThen (feedByte bt s) fun r =>
      andThen (feedAll rest r.1) fun q => .next (q.1, r.2.toList ++ q.2)

/-- No stall timeout fires during a frame that starts at `t0` (R154): every byte comes at most STALL_TIMEOUT_MS later. -/
def InTime (s : State) (t0 : Word) (times : List Word) : Prop :=
  ∀ t ∈ times, (t - t0).toNat ≤ s.cfg.stallTimeoutMs

/-- The steps, among the next `n` steps of the PWM counter, in which channel c's pin is high (R187). -/
def highSteps (cfg : Config) (c : Fin Extent.fans) : Nat → Pwm → Nat
  | 0, _ => 0
  | n + 1, p => (if pinHigh p p.dutyActive[c] then 1 else 0) + highSteps cfg c n (pwmCount cfg p)

/-- The PWM registers after `n` counts (R186). -/
def countSteps (cfg : Config) : Nat → Pwm → Pwm
  | 0, p => p
  | n + 1, p => countSteps cfg n (pwmCount cfg p)

/-- The dispatch loop is about to send this reply, or waits to (R240, R249). -/
def Owes (l : LoopState) (payload : List Byte) : Prop := l = .await payload ∨ l = .reply payload

/-- What GETRPM answers for channel c (R205). -/
def rpmOf (s : State) (c : Fin Extent.fans) : Half := if c.val < s.cfg.fanCount then s.tach.lastRpm[c] else 0

/-- The dispatch loop's reply fits the payload bus of every legal configuration (R250(d)). -/
def LoopFits (l : LoopState) : Prop := ∀ payload, Owes l payload → payload.length ≤ 10

end Sys2Proof.Claims

open Sys2Proof.Claims

/-! ## CRC8 -/

/-- R130: the empty sequence, the loop, zero bytes, the order of the bytes, and the rule's example. It relies on CRC_POLY_REFLECTED
and CRC_INIT as `Config.valid` fixes them (PRESUMED, log 14). -/
def Obligations.Crc8FoldsItsStepOverTheBytes : Prop :=
  ∀ cfg : Config, cfg.valid = true →
    crc8 cfg [] = 0x00 ∧
    (∀ bytes b, crc8 cfg (bytes ++ [b]) = crc8Step 0x8C (crc8 cfg bytes) b) ∧
    (∀ n, crc8 cfg (List.replicate n 0) = 0x00) ∧
    (∃ bytes bytes' : List Byte, bytes.Perm bytes' ∧ crc8 cfg bytes ≠ crc8 cfg bytes') ∧
    crc8 cfg [0xAA, 0x02, 0x01] = 0x53

/-- R131's second form (marked there as general knowledge): the byte-wide step computes the same, for any polynomial. -/
def Obligations.Crc8ByteWideStepIsEqual : Prop :=
  ∀ poly crc b, crc8Step poly crc b = crc8StepByteWide poly crc b

/-- R132(a), an inference of the spec: the residue of a sequence with its CRC is zero. -/
def Obligations.Crc8ResidueIsZero : Prop :=
  ∀ (cfg : Config) (m : List Byte), crc8 cfg (m ++ [crc8 cfg m]) = 0x00

/-- R132(b), an inference of the spec: changing one bit changes the CRC. -/
def Obligations.Crc8DetectsSingleBitErrors : Prop :=
  ∀ (cfg : Config) (before after : List Byte) (b : Byte) (k : Nat), cfg.valid = true → k < 8 →
    crc8 cfg (before ++ [b ^^^ BitVec.twoPow 8 k] ++ after) ≠ crc8 cfg (before ++ [b] ++ after)

/-- R132(c), an inference of the spec: linearity over sequences of equal length. -/
def Obligations.Crc8IsLinear : Prop :=
  ∀ (cfg : Config) (m1 m2 : List Byte), cfg.valid = true → m1.length = m2.length →
    crc8 cfg (List.zipWith (· ^^^ ·) m1 m2) = crc8 cfg m1 ^^^ crc8 cfg m2

/-! ## Encodings -/

/-- Decode and encode agree on every instruction. -/
def Obligations.DecodeOfEncodeIsTheInstruction : Prop :=
  ∀ (cfg : Config) (i : Instr), cfg.valid = true → i.wellFormed = true → decode cfg (encode cfg i) = .ok i

/-- A packet that decodes is the encoding of what it decodes to, so no bit is dropped. For NOP, QPOP, UPDATE, GETPWM, GETRPM and
SEND that holds because their constructors carry the fields R106 has the block ignore (DESIGN CHOICE, log 13): two of their words
that differ in an ignored field decode to two instructions, which by R106 mean the same. -/
def Obligations.EncodeOfDecodedIsThePacket : Prop :=
  ∀ (cfg : Config) (p : Packet) (i : Instr), cfg.valid = true → decode cfg p = .ok i → encode cfg i = p

/-- Words written out from R93 and R100 (95_test_vectors.md 1.1, 2.2 and 2.4 to 2.7) decode to the instructions they stand for, under
the reference configuration. The trailers 53, E1 and EC rest on the CRC parameters (PRESUMED, log 14); that UPDATE's ignored B stays
in the instruction is the model's choice (log 13). -/
def Obligations.SpecWordsDecode : Prop :=
  decode Config.reference (.frame [0xAA, 0x02, 0x01, 0x53]) = .ok .probeDevice ∧
  decode Config.reference (.frame [0xAA, 0x03, 0x31, 0x01, 0xE1]) = .ok (.getFanPwm 1) ∧
  decode Config.reference (.frame [0xAA, 0x05, 0x41, 0x12, 0x34, 0xAA, 0xEC]) = .ok (.eeWriteByte 0x12 0x34 0xAA) ∧
  decode Config.reference (.word 0x00000001) = .ok (.qpop 0 0) ∧
  decode Config.reference (.word 0x00C80302) = .ok (.setpwm 3 200) ∧
  decode Config.reference (.word 0x00FF0005) = .ok (.update 0 0xFF) ∧
  decode Config.reference (.word 0x00000D06) = .ok (.send 13 0)

/-- R106: NOP, the illegal words, and the ignored fields. -/
def Obligations.ReservedDispatchWordsAreIllegal : Prop :=
  (∀ (s : State) (a b : Byte), exec (.nop a b) s = .next { s with out := responded s.out .ok 0 }) ∧
  (∀ w : Word, (∃ e, decodeWord w = .error e) ↔
    (w.extractLsb' 0 3 = 0b111#3 ∨ w.extractLsb' 3 5 ≠ 0 ∨ w.extractLsb' 24 8 ≠ 0)) ∧
  (∀ s : State, s.inp.dpValid = true → (∃ e, decodeWord s.inp.dpWord = .error e) →
    dispatchFetch s = ({ s with out := responded (flagged s.out 0x0400) .illegal 0 }, none)) ∧
  (∀ (s : State) (a b a' b' n : Byte),
    exec (.nop a b) s = exec (.nop a' b') s ∧ exec (.qpop a b) s = exec (.qpop a' b') s ∧
    exec (.update a b) s = exec (.update a' b') s ∧ exec (.getpwm n b) s = exec (.getpwm n b') s ∧
    exec (.getrpm n b) s = exec (.getrpm n b') s ∧ exec (.send n b) s = exec (.send n b') s)

/-! ## The frame receiver -/

/-- R141; in IDLE there is no stall check (R145), and without a byte nothing happens. -/
def Obligations.ByteInIdleStartsAFrameOnlyOnAA : Prop :=
  ∀ s : State, s.cfg.valid = true → s.rx.state = .idle →
    (s.inp.rxValid = true → s.inp.rxData = 0xAA → receivePhase s = .next ({ s with rx := afterStart s.rx s.msClock }, none)) ∧
    (s.inp.rxValid = true → s.inp.rxData ≠ 0xAA → receivePhase s = .next (s, none)) ∧
    (s.inp.rxValid = false → receivePhase s = .next (s, none))

/-- R142 in a step without a stall timeout. -/
def Obligations.LengthByteIsTakenExactlyInRange : Prop :=
  ∀ s : State, s.cfg.valid = true → s.rx.state = .awaitLen → s.inp.rxValid = true → elapsed s s.rx.start ≤ s.cfg.stallTimeoutMs →
    (2 ≤ s.inp.rxData.toNat → s.inp.rxData.toNat ≤ 5 → ∃ remaining : BitVec 3,
      remaining.toNat = s.inp.rxData.toNat ∧
      receivePhase s = .next ({ s with rx := { s.rx with
        state := .awaitPayload, remaining := remaining, count := 2, buf := s.rx.buf.set 1 s.inp.rxData } }, none)) ∧
    (s.inp.rxData.toNat < 2 ∨ 5 < s.inp.rxData.toNat →
      receivePhase s = .next ({ s with rx := inIdle s.rx, out := flagged s.out 0x0004 }, none))

/-- R143 in a step without a stall timeout: the byte is stored at RX_COUNT; with one byte to come, the trailer check follows. -/
def Obligations.PayloadByteIsStored : Prop :=
  ∀ s : State, s.cfg.valid = true → s.rx.state = .awaitPayload → s.inp.rxValid = true → elapsed s s.rx.start ≤ s.cfg.stallTimeoutMs →
    ∀ h : s.rx.count.toNat < 7, ∃ t : State,
      t = { s with rx := { s.rx with
        buf := s.rx.buf.set s.rx.count.toNat s.inp.rxData, count := s.rx.count + 1, remaining := s.rx.remaining - 1 } } ∧
      (s.rx.remaining ≠ 1 → receivePhase s = .next (t, none)) ∧
      (s.rx.remaining = 1 → receivePhase s = rxTrailer t)

/-- R144 with R146's order, R103, R105: a wrong trailer, an unknown command and a wrong length are each dropped with their flag and
nothing else; a known command of its required length is decoded; the receiver goes to IDLE in each case. -/
def Obligations.TrailerCheckDropsOrDecodesTheFrame : Prop :=
  ∀ (s : State) (cmd : Byte) (args : List Byte) (trailer : Byte), s.cfg.valid = true → args.length ≤ 3 →
    receivedBytes s.rx = frameBody cmd args ++ [trailer] →
    (trailer ≠ crc8 s.cfg (frameBody cmd args) →
      rxTrailer s = .next ({ s with rx := inIdle s.rx, out := flagged s.out 0x0002 }, none)) ∧
    (trailer = crc8 s.cfg (frameBody cmd args) →
      (cmd ∉ [0x01#8, 0x20#8, 0x30#8, 0x31#8, 0x32#8, 0x40#8, 0x41#8] →
        rxTrailer s = .next ({ s with rx := inIdle s.rx, out := flagged s.out 0x0008 }, none)) ∧
      (∀ L, requiredLen cmd = some L → L ≠ args.length + 2 →
        rxTrailer s = .next ({ s with rx := inIdle s.rx, out := flagged s.out 0x0010 }, none)) ∧
      (∀ L, requiredLen cmd = some L → L = args.length + 2 → ∃ i : Instr,
        encode s.cfg i = .frame (frameBody cmd args ++ [trailer]) ∧
        rxTrailer s = .next ({ s with rx := inIdle s.rx }, some i)))

/-- R145, R140: the stall check is strict, runs from the start byte's time, with or without a byte, and before the byte, which is
then taken in IDLE. -/
def Obligations.StallCheckComesFirstAndIsStrict : Prop :=
  ∀ s : State, s.cfg.valid = true → s.rx.state = .awaitLen ∨ s.rx.state = .awaitPayload →
    ((s.msClock - s.rx.start).toNat ≤ s.cfg.stallTimeoutMs → s.inp.rxValid = false → receivePhase s = .next (s, none)) ∧
    (s.cfg.stallTimeoutMs < (s.msClock - s.rx.start).toNat →
      (s.inp.rxValid = false ∨ s.inp.rxData ≠ 0xAA →
        receivePhase s = .next ({ s with rx := inIdle s.rx, out := flagged s.out 0x0001 }, none)) ∧
      (s.inp.rxValid = true → s.inp.rxData = 0xAA →
        receivePhase s = .next ({ s with rx := afterStart s.rx s.msClock, out := flagged s.out 0x0001 }, none)))

/-- R154(a), an inference of the spec: the bytes of a valid frame, in time, give exactly one decoded instruction, the frame's, and
leave the receiver in IDLE, with no flag raised and nothing changed outside the receiver. -/
def Obligations.FeedingAValidFrameDecodesItOnce : Prop :=
  ∀ (s : State) (i : Instr) (bytes : List Byte) (t0 : Word) (times : List Word),
    s.cfg.valid = true → s.rx.state = .idle → encode s.cfg i = .frame bytes → bytes.length = times.length + 1 → InTime s t0 times →
    ∃ t : State, feedAll (bytes.zip (t0 :: times)) s = .next (t, [i]) ∧ t.rx.state = .idle ∧
      t.out = s.out ∧ t.q = s.q ∧ t.pwm = s.pwm ∧ t.tach = s.tach ∧ t.tx = s.tx

/-- R154(b), an inference of the spec: the same frame with any other trailer gives no instruction, raises CRC_MISMATCH and leaves
the receiver in IDLE. -/
def Obligations.FeedingAWrongTrailerDecodesNothing : Prop :=
  ∀ (s : State) (i : Instr) (bytes : List Byte) (trailer : Byte) (t0 : Word) (times : List Word),
    s.cfg.valid = true → s.rx.state = .idle → encode s.cfg i = .frame (bytes ++ [trailer]) → bytes.length = times.length → InTime s t0 times →
    ∀ wrong : Byte, wrong ≠ trailer →
    ∃ t : State, feedAll ((bytes ++ [wrong]).zip (t0 :: times)) s = .next (t, []) ∧ t.rx.state = .idle ∧
      t.out = flagged s.out 0x0002 ∧ t.q = s.q ∧ t.tx = s.tx

/-! ## The meanings of the request frames -/

/-- R148 to R150 with R96's records: the six queued requests. -/
def Obligations.QueuedRequestsPushTheirRecord : Prop :=
  ∀ channel pwm addrH addrL value : Byte,
    ShowsAndPushes .getTemp ∧
    ShowsAndPushes .getFanRpm ∧
    ShowsAndPushes (.getFanPwm channel) ∧
    ShowsAndPushes (.setFanPwm channel pwm) ∧
    ShowsAndPushes (.eeReadByte addrH addrL) ∧
    ShowsAndPushes (.eeWriteByte addrH addrL value)

/-- R147: one more owed reply, or PROBE_OVERFLOW at saturation; never a push. Under a PROBE_PENDING_MAX above 255, what R44's 8 bits
hold of a count of 256 is free (DESIGN CHOICE, log 10). -/
def Obligations.ProbeDeviceOwesOneMoreReply : Prop :=
  ∀ s : State,
    (s.tx.probePending.toNat = s.cfg.probePendingMax →
      exec .probeDevice s = .next { s with
        out := { s.out with rxCmdValid := true, rxCmd := 0x00000001, errFlags := s.out.errFlags ||| 0x0800 } }) ∧
    (s.tx.probePending.toNat ≠ s.cfg.probePendingMax → ∃ pending : BitVec 8,
      exec .probeDevice s = .next { s with
        tx := { s.tx with probePending := pending }
        out := { s.out with rxCmdValid := true, rxCmd := 0x00000001 } } ∧
      (s.tx.probePending.toNat < 255 → pending.toNat = s.tx.probePending.toNat + 1))

/-! ## The command queue -/

/-- R170, R172: a record is appended while there is room; the eleventh is dropped with QUEUE_OVERFLOW and the queue is as it was. -/
def Obligations.PushAppendsOrDropsTheNewest : Prop :=
  ∀ (s : State) (rec : Word), s.cfg.valid = true → QueueInv s.cfg s.q → s.wires.push = some rec →
    (pushPhase s).out.qCount = (pushPhase s).q.count ∧ (pushPhase s).wires.push = none ∧
    (s.q.count.toNat < 10 →
      queueContents s.cfg (pushPhase s).q = queueContents s.cfg s.q ++ [rec] ∧
      (pushPhase s).q.head = s.q.head ∧ (pushPhase s).out.errFlags = s.out.errFlags) ∧
    (s.q.count.toNat = 10 →
      (pushPhase s).q = s.q ∧ (pushPhase s).out.errFlags = s.out.errFlags ||| 0x0020)

/-- R171: EMPTY, or the oldest record, removed. -/
def Obligations.QpopReturnsTheOldestRecord : Prop :=
  ∀ (s : State) (a b : Byte), s.cfg.valid = true → QueueInv s.cfg s.q →
    (queueContents s.cfg s.q = [] → exec (.qpop a b) s = .next { s with out := responded s.out .empty 0 }) ∧
    (∀ w rest, queueContents s.cfg s.q = w :: rest → ∃ q : Queue,
      exec (.qpop a b) s = .next { s with q := q, out := responded s.out .ok w } ∧
      queueContents s.cfg q = rest ∧ q.entry = s.q.entry ∧ q.count.toNat + 1 = s.q.count.toNat ∧
      q.head.toNat = (s.q.head.toNat + 1) % 10)

/-- R173, over one whole step: with a queued request decoded and a QPOP on the dispatch port in the same step, the pop comes first. A
queue with records, a full one too, gives its oldest and takes the new record without QUEUE_OVERFLOW; an empty one responds EMPTY and
ends holding the new record. -/
def Obligations.PopComesBeforeThePush : Prop :=
  ∀ (s : State) (i : Instr) (a b : Byte), Inv s → (nextInputs s).rst = false →
    DecodesNext s i → i ≠ .probeDevice → DispatchesNext s (.qpop a b) → ∃ t : State, step s = .next t ∧
      t.out.errFlags.getLsbD 5 = false ∧
      (∀ w rest, queueContents s.cfg s.q = w :: rest →
        t.out.dpStatus = .ok ∧ t.out.dpData = w ∧ queueContents s.cfg t.q = rest ++ [recordWord i] ∧ t.q.count = s.q.count) ∧
      (queueContents s.cfg s.q = [] →
        t.out.dpStatus = .empty ∧ t.out.dpData = 0 ∧ queueContents s.cfg t.q = [recordWord i])

/-- R174, an inference of the spec, over one whole step: what QPOP returns is the oldest record; a decoded queued request's record
goes to the end whenever the queue has room after the step's pop, and is dropped with QUEUE_OVERFLOW when it has none (R172); nothing
else comes in. -/
def Obligations.QueueIsFirstInFirstOut : Prop :=
  ∀ s t : State, Inv s → (nextInputs s).rst = false → step s = .next t → ∃ pushed : List Word,
    (∀ i, DecodesNext s i → i ≠ .probeDevice →
      (s.q.count.toNat < s.cfg.queueCap ∨ (∃ a b, DispatchesNext s (.qpop a b)) →
        pushed = [recordWord i] ∧ t.out.errFlags.getLsbD 5 = false) ∧
      (s.q.count.toNat = s.cfg.queueCap → (¬ ∃ a b, DispatchesNext s (.qpop a b)) →
        pushed = [] ∧ t.out.errFlags.getLsbD 5 = true)) ∧
    ((∀ i, DecodesNext s i → i = .probeDevice) → pushed = [] ∧ t.out.errFlags.getLsbD 5 = false) ∧
    ((∃ a b, DispatchesNext s (.qpop a b)) →
      (queueContents s.cfg s.q = [] → t.out.dpStatus = .empty ∧ queueContents s.cfg t.q = pushed) ∧
      (∀ w rest, queueContents s.cfg s.q = w :: rest →
        t.out.dpStatus = .ok ∧ t.out.dpData = w ∧ queueContents s.cfg t.q = rest ++ pushed)) ∧
    ((¬ ∃ a b, DispatchesNext s (.qpop a b)) → queueContents s.cfg t.q = queueContents s.cfg s.q ++ pushed)

/-! ## PWM -/

/-- R182: FAIL with a flag for each operand out of range, or the inverted mapped duty of R180 and OK. -/
def Obligations.SetpwmWritesTheInvertedMap : Prop :=
  (∀ c p : Byte, decodeWord (dpWordOf 2 c p) = .ok (.setpwm c p)) ∧
  ∀ (s : State) (c p : Byte), s.cfg.valid = true →
    (s.cfg.fanCount ≤ c.toNat ∨ 100 < p.toNat →
      exec (.setpwm c p) s = .next { s with
        out := responded (flagged s.out
          ((if s.cfg.fanCount ≤ c.toNat then 0x0100 else 0) ||| (if 100 < p.toNat then 0x0200 else 0))) .fail 0 }) ∧
    (c.toNat < s.cfg.fanCount → p.toNat ≤ 100 → ∃ duty : PerFan Half,
      exec (.setpwm c p) s = .next { s with pwm := { s.pwm with duty := duty }, out := responded s.out .ok 0 } ∧
      ∀ k : Fin Extent.fans,
        (k.val = c.toNat → duty[k].toNat = s.cfg.timerTop - p.toNat * s.cfg.timerTop / 100) ∧
        (k.val ≠ c.toNat → duty[k] = s.pwm.duty[k]))

/-- R183 with R181: 0 for an inactive channel, else the inverse map of DUTY[c], which R48(g) keeps at or below TIMER_TOP. -/
def Obligations.GetpwmReadsTheInverseMap : Prop :=
  ∀ (s : State) (c : Fin Extent.fans) (b : Byte),
    (c.val < s.cfg.fanCount → s.pwm.duty[c].toNat ≤ s.cfg.timerTop →
      exec (.getpwm (BitVec.ofNat 8 c.val) b) s = .next { s with
        out := responded s.out .ok
          (BitVec.ofNat 32 ((s.cfg.timerTop - s.pwm.duty[c].toNat) * 100 / s.cfg.timerTop)) }) ∧
    (∀ channel : Byte, s.cfg.fanCount ≤ channel.toNat →
      exec (.getpwm channel b) s = .next { s with out := responded s.out .ok 0 })

/-- R184, an inference of the spec: SETPWM then GETPWM gives the percentage or one less, and the percentage itself where the map
is exact. -/
def Obligations.PwmRoundTripIsWithinOne : Prop :=
  ∀ (s : State) (c p b : Byte), s.cfg.valid = true → c.toNat < s.cfg.fanCount → p.toNat ≤ 100 →
    ∃ t u : State, exec (.setpwm c p) s = .next t ∧ exec (.getpwm c b) t = .next u ∧
      p.toNat ≤ u.out.dpData.toNat + 1 ∧ u.out.dpData.toNat ≤ p.toNat ∧
      (p.toNat * s.cfg.timerTop % 100 = 0 → u.out.dpData.toNat = p.toNat)

/-- R185, R186: the counter's sequence, and the load of the active compare values in the step that reaches TIMER_TOP. -/
def Obligations.PwmCounterRunsUpAndDown : Prop :=
  ∀ s : State, s.cfg.valid = true → PwmInv s.cfg s.pwm → ∃ p : Pwm, (pwmPhase s).pwm = p ∧ p.duty = s.pwm.duty ∧
    (s.pwm.dir = .up → s.pwm.cnt.toNat + 1 = s.cfg.timerTop →
      p.cnt.toNat = s.cfg.timerTop ∧ p.dir = .down ∧ ∀ c : Fin Extent.fans,
        p.dutyActive[c] = if c.val < s.cfg.fanCount then s.pwm.duty[c] else s.pwm.dutyActive[c]) ∧
    (s.pwm.dir = .up → s.pwm.cnt.toNat + 1 ≠ s.cfg.timerTop →
      p.cnt.toNat = s.pwm.cnt.toNat + 1 ∧ p.dir = .up ∧ p.dutyActive = s.pwm.dutyActive) ∧
    (s.pwm.dir = .down → s.pwm.cnt.toNat = 1 → p.cnt.toNat = 0 ∧ p.dir = .up ∧ p.dutyActive = s.pwm.dutyActive) ∧
    (s.pwm.dir = .down → s.pwm.cnt.toNat ≠ 1 →
      p.cnt.toNat + 1 = s.pwm.cnt.toNat ∧ p.dir = .down ∧ p.dutyActive = s.pwm.dutyActive)

/-- R187, R188: the pin is the compare of the values before this step's count; an inactive channel's is the draw. -/
def Obligations.PinComparesTheActiveDuty : Prop :=
  ∀ (s t : State) (c : Fin Extent.fans), (nextInputs s).rst = false → step s = .next t →
    (c.val < s.cfg.fanCount →
      (t.out.pwmPin[c] = true ↔
        (s.pwm.dir = .up ∧ s.pwm.cnt.toNat < s.pwm.dutyActive[c].toNat) ∨
        (s.pwm.dir = .down ∧ s.pwm.cnt.toNat ≤ s.pwm.dutyActive[c].toNat ∧ 1 ≤ s.pwm.cnt.toNat))) ∧
    (s.cfg.fanCount ≤ c.val → t.out.pwmPin[c] = (nextInputs s).pinDraw[c])

/-- R187's on-time, an inference of the spec: over one period from TOP to TOP the pin is high for exactly 2 D of 2 TIMER_TOP
steps, and the counter is back at TOP. -/
def Obligations.PinIsHighForTwiceTheDuty : Prop :=
  ∀ (cfg : Config) (p : Pwm) (c : Fin Extent.fans), cfg.valid = true → c.val < cfg.fanCount →
    p.dir = .down → p.cnt.toNat = cfg.timerTop → p.dutyActive[c].toNat ≤ cfg.timerTop →
    highSteps cfg c (2 * cfg.timerTop) p = 2 * p.dutyActive[c].toNat ∧
    (countSteps cfg (2 * cfg.timerTop) p).dir = .down ∧
    (countSteps cfg (2 * cfg.timerTop) p).cnt.toNat = cfg.timerTop

/-- R31: only SETPWM writes DUTY, outside reset. -/
def Obligations.OnlySetpwmWritesTheDuty : Prop :=
  ∀ s t : State, (nextInputs s).rst = false → (¬ ∃ c p, DispatchesNext s (.setpwm c p)) → step s = .next t →
    t.pwm.duty = s.pwm.duty

/-! ## Tachometer and RPM -/

/-- R200, R201: in a step without a due UPDATE each falling edge of an active channel adds one to its own pulse counter, nothing
else does, and the level is kept. -/
def Obligations.PulsesCountFallingEdges : Prop :=
  ∀ (s t : State) (c : Fin Extent.fans), (nextInputs s).rst = false → step s = .next t →
    (∀ a b, DispatchesNext s (.update a b) → (t.msClock - s.tach.windowStart).toNat < s.cfg.rpmWindowMs) →
    t.tach.prev = (nextInputs s).tach ∧ t.tach.lastRpm = s.tach.lastRpm ∧ t.tach.windowStart = s.tach.windowStart ∧
    (FallingEdgeNext s c → t.tach.pulse[c] = s.tach.pulse[c] + 1) ∧
    (¬ FallingEdgeNext s c → t.tach.pulse[c] = s.tach.pulse[c])

/-- R202 with R203's capture and R204's function, as the operation of phase P4. -/
def Obligations.UpdateClosesADueWindow : Prop :=
  ∀ (s : State) (a b : Byte), s.cfg.valid = true →
    ((s.msClock - s.tach.windowStart).toNat < s.cfg.rpmWindowMs →
      exec (.update a b) s = .next { s with out := responded s.out .ok 0 }) ∧
    (s.cfg.rpmWindowMs ≤ (s.msClock - s.tach.windowStart).toNat → ∃ (tach : Tach) (consumed : PerFan Bool),
      exec (.update a b) s = .next { s with
        tach := tach, wires := { s.wires with consumed := consumed }, out := responded s.out .ok 1 } ∧
      tach.windowStart = s.msClock ∧ tach.prev = s.tach.prev ∧
      ∀ c : Fin Extent.fans,
        (c.val < s.cfg.fanCount →
          tach.pulse[c] = 0 ∧
          (consumed[c] = true ↔ s.wires.edge[c] = true ∧ s.inp.captureDraw[c] ≠ .new) ∧
          ∃ n : Word, n = (if s.wires.edge[c] = true ∧ s.inp.captureDraw[c] = .old then s.tach.pulse[c] + 1 else s.tach.pulse[c]) ∧
            tach.lastRpm[c].toNat =
              min (n.toNat * 60000 / (s.msClock - s.tach.windowStart).toNat / s.cfg.cyclesPerRev) 65535) ∧
        (s.cfg.fanCount ≤ c.val →
          tach.pulse[c] = s.tach.pulse[c] ∧ tach.lastRpm[c] = s.tach.lastRpm[c] ∧ consumed[c] = false))

/-- R203 over the whole step of a due UPDATE: the draw decides where a coincident edge goes, and without an edge none is lost. -/
def Obligations.CaptureDrawPlacesACoincidentEdge : Prop :=
  ∀ (s t : State) (c : Fin Extent.fans) (a b : Byte) (e : Nat), s.cfg.valid = true → (nextInputs s).rst = false →
    DispatchesNext s (.update a b) → step s = .next t →
    e = (t.msClock - s.tach.windowStart).toNat → s.cfg.rpmWindowMs ≤ e → c.val < s.cfg.fanCount →
    (¬ FallingEdgeNext s c →
      t.tach.pulse[c] = 0 ∧ t.tach.lastRpm[c].toNat = rpm s.cfg s.tach.pulse[c].toNat e) ∧
    (FallingEdgeNext s c → (nextInputs s).captureDraw[c] = .old →
      t.tach.pulse[c] = 0 ∧ t.tach.lastRpm[c].toNat = rpm s.cfg (s.tach.pulse[c] + 1).toNat e) ∧
    (FallingEdgeNext s c → (nextInputs s).captureDraw[c] = .new →
      t.tach.pulse[c] = 1 ∧ t.tach.lastRpm[c].toNat = rpm s.cfg s.tach.pulse[c].toNat e) ∧
    (FallingEdgeNext s c → (nextInputs s).captureDraw[c] = .lost →
      t.tach.pulse[c] = 0 ∧ t.tach.lastRpm[c].toNat = rpm s.cfg s.tach.pulse[c].toNat e)

/-- R205: the last computed RPM, or 0 for an inactive channel. -/
def Obligations.GetrpmReadsTheLastRpm : Prop :=
  ∀ (s : State) (c : Fin Extent.fans) (b : Byte),
    (c.val < s.cfg.fanCount → ∃ data : Word, data.toNat = s.tach.lastRpm[c].toNat ∧
      exec (.getrpm (BitVec.ofNat 8 c.val) b) s = .next { s with out := responded s.out .ok data }) ∧
    (∀ channel : Byte, s.cfg.fanCount ≤ channel.toNat →
      exec (.getrpm channel b) s = .next { s with out := responded s.out .ok 0 })

/-! ## The frame sender -/

/-- R220 to R223: the overflow test, then the busy test, then the frame of R97 is loaded and its emission begins. TX_LEN is the frame's
length where R41's 5 bits hold it, and within R41's bounds where they do not (its value there is free: DESIGN CHOICE, log 10). -/
def Obligations.SendLoadsAFrameOrIsRefused : Prop :=
  ∀ (s : State) (n b : Byte), s.cfg.valid = true → s.inp.wellFormed s.cfg = true →
    (s.cfg.txBufBytes - 3 < n.toNat →
      exec (.send n b) s = .next { s with out := responded (flagged s.out 0x0040) .fail 0 }) ∧
    (n.toNat ≤ s.cfg.txBufBytes - 3 → s.tx.state ≠ .idle ∨ s.tx.probePending ≠ 0 →
      exec (.send n b) s = .next { s with out := responded (flagged s.out 0x0080) .busy 0 }) ∧
    (n.toNat ≤ s.cfg.txBufBytes - 3 → s.tx.state = .idle → s.tx.probePending = 0 →
      ∃ (buf header : List Byte) (len : BitVec 5),
        exec (.send n b) s = .next { s with
          tx := { s.tx with state := .emit, buf := buf, len := len, idx := 0 }, out := responded s.out .ok 0 } ∧
        (n.toNat + 3 < 32 → len.toNat = n.toNat + 3) ∧ 3 ≤ len.toNat ∧ len.toNat ≤ s.cfg.txBufBytes ∧
        header = [0xC5, n + 1] ++ s.inp.dpPayload.take n.toNat ∧
        buf = header ++ [crc8 s.cfg header] ++ s.tx.buf.drop (n.toNat + 3))

/-- R225 with R224: an owed probe reply begins in a sender phase that finds IDLE or SPACE, and its first byte is offered. -/
def Obligations.ProbeReplyBeginsWhenNothingIsEmitted : Prop :=
  ∀ s : State, s.cfg.valid = true → s.tx.state = .idle ∨ s.tx.state = .space → s.tx.probePending ≠ 0 →
    ∃ (t : State) (body : List Byte), senderPhase s = .next t ∧
      body = [0xC5, 0x05, 0x01, BitVec.ofNat 8 s.cfg.deviceId, BitVec.ofNat 8 s.cfg.tempCount, BitVec.ofNat 8 s.cfg.fanCount] ∧
      t.tx.buf = body ++ [crc8 s.cfg body] ++ s.tx.buf.drop 7 ∧ t.tx.len = 7 ∧ t.tx.state = .emit ∧
      t.tx.probePending.toNat + 1 = s.tx.probePending.toNat ∧
      t.tx.idx = (if s.inp.txReady then 1 else 0) ∧ t.tx.spaceStart = s.tx.spaceStart ∧
      t.out.txValid = true ∧ t.out.txData = 0xC5 ∧ t.out.txBusy = true

/-- R226: the byte at TX_IDX is offered; taken, the index advances; after the last byte the spacing starts now. -/
def Obligations.EmissionOffersTheByteUntilItIsTaken : Prop :=
  ∀ s : State, s.tx.state = .emit → s.tx.idx.toNat < s.tx.len.toNat → ∀ h : s.tx.idx.toNat < s.tx.buf.length,
    ∃ (out : Outputs) (idx : BitVec 5),
      out = { s.out with txValid := true, txData := s.tx.buf[s.tx.idx.toNat], txBusy := true } ∧
      idx.toNat = s.tx.idx.toNat + 1 ∧
      (s.inp.txReady = false → senderPhase s = .next { s with out := out }) ∧
      (s.inp.txReady = true → s.tx.idx.toNat + 1 < s.tx.len.toNat →
        senderPhase s = .next { s with tx := { s.tx with idx := idx }, out := out }) ∧
      (s.inp.txReady = true → s.tx.idx.toNat + 1 = s.tx.len.toNat →
        senderPhase s = .next { s with
          tx := { s.tx with idx := idx, state := .space, spaceStart := s.msClock }, out := out })

/-- R227: SPACE lasts until SPACING_MS have passed since the last byte was taken, unless a probe reply starts first. -/
def Obligations.SpacingEndsAtItsDeadline : Prop :=
  ∀ s : State, s.tx.state = .space →
    (s.tx.probePending = 0 → (s.msClock - s.tx.spaceStart).toNat < s.cfg.spacingMs →
      senderPhase s = .next { s with out := { s.out with txBusy := true } }) ∧
    (s.tx.probePending = 0 → s.cfg.spacingMs ≤ (s.msClock - s.tx.spaceStart).toNat →
      senderPhase s = .next { s with tx := { s.tx with state := .idle }, out := { s.out with txBusy := false } }) ∧
    (s.tx.probePending ≠ 0 → ∃ t : State, senderPhase s = .next t ∧
      t.tx.state = .emit ∧ t.tx.len = 7 ∧ t.tx.probePending.toNat + 1 = s.tx.probePending.toNat)

/-- R230's ground, an inference of the spec, over all instructions and inputs: the sender becomes IDLE only by reset or at the end
of a spacing. -/
def Obligations.SenderBecomesIdleOnlyAfterTheSpacing : Prop :=
  ∀ s t : State, (nextInputs s).rst = false → step s = .next t → s.tx.state ≠ .idle → t.tx.state = .idle →
    s.tx.state = .space ∧ s.cfg.spacingMs ≤ (t.msClock - s.tx.spaceStart).toNat

/-- R226's corner case over all instructions and inputs: a frame being emitted is not replaced, and its bytes go out in order. -/
def Obligations.NothingInterruptsAnEmission : Prop :=
  ∀ s t : State, Inv s → (nextInputs s).rst = false → step s = .next t → s.tx.state = .emit →
    t.tx.buf = s.tx.buf ∧ t.tx.len = s.tx.len ∧ t.out.txValid = true ∧
    t.out.txData = s.tx.buf.getD s.tx.idx.toNat 0 ∧
    t.tx.idx.toNat = s.tx.idx.toNat + (if (nextInputs s).txReady then 1 else 0) ∧
    (t.tx.state = .emit ∨ t.tx.state = .space ∧ t.tx.idx = t.tx.len)

/-- R229: `tx_busy` after every step but a reset step. -/
def Obligations.TxBusyShowsTheSender : Prop :=
  ∀ s t : State, (nextInputs s).rst = false → step s = .next t →
    (t.out.txBusy = true ↔ t.tx.state ≠ .idle ∨ t.tx.probePending ≠ 0)

/-- R287, R291, inferences of the spec, over one whole step: with ProbeDevice decoded and a SEND that fits on the dispatch port in the
same step, the probe comes first and the SEND is BUSY. Its frame is not loaded: what is being emitted goes on, and otherwise the
probe's reply begins. Only a count of 256, which R44's 8 bits cannot hold under a PROBE_PENDING_MAX above 255, is left out (log 10). -/
def Obligations.ProbeBlocksTheSendOfItsStep : Prop :=
  ∀ (s : State) (n b : Byte), Inv s → (nextInputs s).rst = false → DecodesNext s .probeDevice → DispatchesNext s (.send n b) →
    s.tx.probePending.toNat < 255 ∨ s.cfg.probePendingMax ≤ 255 →
    n.toNat ≤ s.cfg.txPayloadMax → ∃ t : State, step s = .next t ∧
      t.out.dpStatus = .busy ∧ t.out.errFlags.getLsbD 7 = true ∧
      (s.tx.state = .emit → t.tx.buf = s.tx.buf ∧ t.tx.len = s.tx.len) ∧
      (s.tx.state ≠ .emit → t.tx.state = .emit ∧ t.tx.len = 7 ∧ t.tx.buf.take 7 = replyFrame s.cfg (probePayload s.cfg))

/-! ## The whole machine -/

/-- R280: a reset step, from any state. The contents R280 leaves unspecified are not stated. TACH_PREV = 1 rests on a pulled-up
input's idle level (PRESUMED, log 16), and the pins' levels on the PWM waveform (PRESUMED, log 15), as the spec marks them. -/
def Obligations.ResetStepSetsEveryRegister : Prop :=
  ∀ s : State, s.cfg.valid = true → (nextInputs s).rst = true → ∃ t : State, step s = .next t ∧
    t.cfg = s.cfg ∧ t.msClock = 0 ∧
    t.rx.state = .idle ∧ t.rx.remaining = 0 ∧ t.rx.count = 0 ∧ t.rx.start = 0 ∧
    t.q.head = 0 ∧ t.q.count = 0 ∧
    t.pwm.cnt = 0 ∧ t.pwm.dir = .up ∧ t.pwm.dutyActive = t.pwm.duty ∧
    (∀ c : Fin Extent.fans, c.val < s.cfg.fanCount →
      t.pwm.duty[c].toNat = s.cfg.timerTop - s.cfg.initDutyPercent * s.cfg.timerTop / 100) ∧
    (∀ c : Fin Extent.fans, t.tach.pulse[c] = 0 ∧ t.tach.lastRpm[c] = 0 ∧ t.tach.prev[c] = true) ∧
    t.tach.windowStart = 0 ∧
    t.tx.state = .idle ∧ t.tx.len = 0 ∧ t.tx.idx = 0 ∧ t.tx.spaceStart = 0 ∧ t.tx.probePending = 0 ∧
    t.out.txValid = false ∧ t.out.txData = 0 ∧ t.out.errFlags = 0 ∧ t.out.rxCmdValid = false ∧ t.out.rxCmd = 0 ∧
    t.out.dpRespValid = false ∧ t.out.dpStatus.code = 0 ∧ t.out.dpData = 0 ∧ t.out.txBusy = false ∧ t.out.qCount = 0 ∧
    (∀ c : Fin Extent.fans,
      (c.val < s.cfg.fanCount → (t.out.pwmPin[c] = true ↔ 0 < t.pwm.dutyActive[c].toNat)) ∧
      (s.cfg.fanCount ≤ c.val → t.out.pwmPin[c] = (nextInputs s).pinDraw[c]))

/-- The state after reset, under every legal configuration and under the model's reference one (log 1), meets the invariant. -/
def Obligations.ResetMeetsTheInvariant : Prop :=
  (∀ cfg : Config, cfg.valid = true → Inv (State.afterReset cfg)) ∧ Inv State.reset

/-- R11 and R48, inferences of the spec: from every state that meets the invariant the machine goes on, whatever the inputs and
draws, to a state that meets it. -/
def Obligations.StepGoesOnAndKeepsTheInvariant : Prop :=
  ∀ s : State, Inv s → ∃ t : State, step s = .next t ∧ Inv t

/-- R11: a step is refused exactly on a configuration outside R6's constraints as `Config.valid` reads them: "about 25 000" is 24 000
to 26 000 there (DESIGN CHOICE, log 11). -/
def Obligations.OnlyAnIllegalConfigurationIsRefused : Prop :=
  ∀ (s : State) (r : Refusal), step s = .refused r ↔ s.cfg.valid = false ∧ r = .badConfiguration

/-- The model's seven faults (log 8), each in states R48 rules out: U7 and U8 of 93_implementation_defined.md. -/
def Obligations.UnreachableStatesFault : Prop :=
  (∀ s : State, s.cfg.valid = true → (nextInputs s).rst = false → s.rx.state = .reserved → step s = .fault .reservedRxState) ∧
  (∀ s : State, s.rx.state = .awaitPayload → s.inp.rxValid = true → elapsed s s.rx.start ≤ s.cfg.stallTimeoutMs →
    s.cfg.rxBufBytes ≤ s.rx.count.toNat → receivePhase s = .fault .rxBufferIndex) ∧
  (∀ (s : State) (e : FrameError), e ∈ [.badStart, .invalidLength, .badExtent] →
    decodeFrame s.cfg (receivedBytes s.rx) = .error e → rxTrailer s = .fault .rxFrameShape) ∧
  (∀ s : State, s.tx.state = .reserved → senderPhase s = .fault .reservedTxState) ∧
  (∀ s : State, s.tx.state = .emit → s.tx.len.toNat ≤ s.tx.idx.toNat → senderPhase s = .fault .txBufferIndex) ∧
  (∀ (s : State) (a b : Byte), s.q.count ≠ 0 → s.cfg.queueCap ≤ s.q.head.toNat → exec (.qpop a b) s = .fault .queueIndex) ∧
  (∀ (s : State) (c : Fin Extent.fans) (b : Byte), c.val < s.cfg.fanCount → s.cfg.timerTop < s.pwm.duty[c].toNat →
    exec (.getpwm (BitVec.ofNat 8 c.val) b) s = .fault .dutyAboveTop)

/-- R46: no step changes the configuration, a reset step included. -/
def Obligations.NoStepChangesTheConfiguration : Prop :=
  ∀ s t : State, step s = .next t → t.cfg = s.cfg

/-- R22: outside reset the clock advances by one, modulo 2^32, exactly in a step with the tick. -/
def Obligations.ClockAdvancesExactlyOnTheTick : Prop :=
  ∀ s t : State, (nextInputs s).rst = false → step s = .next t →
    ((nextInputs s).tick1ms = true → t.msClock.toNat = (s.msClock.toNat + 1) % 2 ^ 32) ∧
    ((nextInputs s).tick1ms = false → t.msClock = s.msClock)

/-- The phases of R10 in their order: sampling, P1 clock and P2 edges; P3, whose instruction is the decoded frame's; P4, whose
instruction is the dispatch word's; P5 push, P6 count, P7 sender and PWM. That a step can run two instructions, the frame's and then
the dispatch word's, is the model's reading of P3 and P4 (DEDUCED, log 20). -/
def Obligations.StepRunsTheDecodedInstructions : Prop :=
  (∀ s : State, frontPhases s = edgePhase (clockPhase (beginStep s))) ∧
  (∀ s : State, s.cfg.valid = true → (nextInputs s).rst = false →
    (∀ t, receivePhase (frontPhases s) = .next (t, none) → step s = dispatchOnward t) ∧
    (∀ t i, receivePhase (frontPhases s) = .next (t, some i) → step s = andThen (exec i t) dispatchOnward)) ∧
  (∀ (s : State) (i : Instr), s.cfg.valid = true → s.rx.state = .awaitPayload → s.inp.rxValid = true → s.rx.remaining = 1 →
    s.rx.count.toNat < 7 → elapsed s s.rx.start ≤ s.cfg.stallTimeoutMs →
    decodeFrame s.cfg (receivedBytes (storeByte s.inp.rxData s).rx) = .ok i →
    receivePhase s = .next (toIdle (storeByte s.inp.rxData s), some i)) ∧
  (∀ s : State, s.inp.dpValid = false → dispatchOnward s = backPhases s) ∧
  (∀ (s : State) (i : Instr), s.inp.dpValid = true → decodeWord s.inp.dpWord = .ok i →
    dispatchOnward s = andThen (exec i s) backPhases) ∧
  (∀ s : State, backPhases s = andThen (senderPhase (countPhase (pushPhase s))) fun t => .next (pwmPhase t))

/-- R101: a response exactly in a step with `dp_valid` = 1, whose status is one of the five codes and whose data is 0 unless it is
OK; and 0 on all three without. -/
def Obligations.EveryDispatchWordGetsOneResponse : Prop :=
  (DpStatus.ok.code = 0 ∧ DpStatus.fail.code = 1 ∧ DpStatus.busy.code = 2 ∧ DpStatus.illegal.code = 3 ∧ DpStatus.empty.code = 4) ∧
  ∀ s t : State, (nextInputs s).rst = false → step s = .next t →
    t.out.dpRespValid = (nextInputs s).dpValid ∧ t.out.dpStatus.code.toNat ≤ 4 ∧
    (t.out.dpStatus ≠ .ok → t.out.dpData = 0) ∧
    ((nextInputs s).dpValid = false → t.out.dpStatus.code = 0 ∧ t.out.dpData = 0)

/-- R153: `rx_cmd_valid` is 1, with the record of R96, exactly in a step in which the receiver decodes a command; in every other
step, a reset step included, both are 0. -/
def Obligations.RxCmdIsShownExactlyWhenDecoded : Prop :=
  ∀ s t : State, step s = .next t →
    ((nextInputs s).rst = true → t.out.rxCmdValid = false ∧ t.out.rxCmd = 0) ∧
    ((nextInputs s).rst = false →
      (∀ u i, receivePhase (frontPhases s) = .next (u, some i) →
        t.out.rxCmdValid = true ∧ t.out.rxCmd.toNat = commandRecord i) ∧
      ((¬ ∃ u i, receivePhase (frontPhases s) = .next (u, some i)) → t.out.rxCmdValid = false ∧ t.out.rxCmd = 0))

/-- R264, an inference of the spec: at most one receiver event in a step, and the reserved flag bits are always 0 (R260). -/
def Obligations.AtMostOneReceiverEventPerStep : Prop :=
  ∀ s t : State, step s = .next t →
    (∀ i ∈ [0, 1, 2, 3, 4, 11], ∀ j ∈ [0, 1, 2, 3, 4, 11],
      t.out.errFlags.getLsbD i = true → t.out.errFlags.getLsbD j = true → i = j) ∧
    (∀ k, 12 ≤ k → t.out.errFlags.getLsbD k = false)

/-- R97 for every frame the block emits: what TX_BUF holds while it is emitted is a whole reply frame, and TX_LEN its length where
R41's 5 bits hold it (log 10). -/
def Obligations.EveryEmittedFrameIsAReplyFrame : Prop :=
  ∀ s t : State, Inv s → EmitsReplyFrame s.cfg s.tx → step s = .next t → EmitsReplyFrame t.cfg t.tx

/-- R248, an inference of the spec: the queue holds records of the six pushed kinds only, their unused bytes 0. -/
def Obligations.QueueHoldsOnlyPushedKinds : Prop :=
  ∀ s t : State, Inv s → QueueHoldsRecords s.cfg s.q → step s = .next t → QueueHoldsRecords t.cfg t.q

/-- The state after reset emits no frame and queues no record, so the two invariants above hold of it. -/
def Obligations.ResetHoldsNoFrameAndNoRecord : Prop :=
  ∀ cfg : Config,
    (State.afterReset cfg).tx.state = .idle ∧ queueContents cfg (State.afterReset cfg).q = [] ∧
    EmitsReplyFrame cfg (State.afterReset cfg).tx ∧ QueueHoldsRecords cfg (State.afterReset cfg).q

/-! ## The dispatch loop -/

/-- R249's wait and R250(a), (d), (e) for the model's dispatch-loop agent (its schedule is the model's choice, log 19). It sends a reply
only after a step that showed `tx_busy` = 0, issues UPDATE while it waits, and keeps a reply until its SEND responds OK. It never
drives a reserved word and never an oversize SEND, so the block raises neither ILLEGAL_OP nor SEND_OVERFLOW. -/
def Obligations.DispatchLoopWaitsAndDrivesLegalWords : Prop :=
  ∀ (co : Collaborators) (sys sys' : System), sys.block.cfg.valid = true → LoopFits sys.loop →
    systemStep co sys = .next sys' →
    LoopFits sys'.loop ∧ sys'.block.out.errFlags.getLsbD 10 = false ∧ sys'.block.out.errFlags.getLsbD 6 = false ∧
    (∀ payload, sys'.loop = .reply payload → sys'.block.out.txBusy = false) ∧
    ((nextInputs sys.block).rst = false → sys'.block.out.dpRespValid = true ∧ ∀ payload,
      (sys.loop = .await payload → sys.loop.word = 0x00000005 ∧ sys'.block.out.dpStatus = .ok ∧ Owes sys'.loop payload) ∧
      (sys.loop = .reply payload →
        (sys'.block.out.dpStatus = .ok → sys'.loop = .update) ∧
        (sys'.block.out.dpStatus ≠ .ok → sys'.loop = .await payload)))

/-- R250(b), (c) for the model's dispatch-loop agent (log 19): from any point of a run without reset, an UPDATE follows within four
steps, and within four steps a QPOP, unless the loop waits for `tx_busy` = 0 before it sends a reply, which R240 has it do first. -/
def Obligations.DispatchLoopKeepsPollingAndUpdating : Prop :=
  ∀ (co : Nat → Collaborators) (run : Nat → System),
    (∀ k, k < 4 → systemStep (co k) (run k) = .next (run (k + 1)) ∧ (nextInputs (run k).block).rst = false) →
    (∃ k, k ≤ 4 ∧ (run k).loop.word = 0x00000005) ∧
    (∃ k, k ≤ 4 ∧ ((run k).loop.word = 0x00000001 ∨ ∃ payload, (run k).loop = .await payload))

/-- R240 with R242 to R247 for the model's dispatch-loop agent (log 19): from a poll, the record popped decides the operations and the
one reply owed; an operation's answer goes into the reply as the rules lay it out. -/
def Obligations.DispatchLoopAnswersEachRecord : Prop :=
  ∀ (co : Collaborators) (sys sys' : System), Inv sys.block → (nextInputs sys.block).rst = false → systemStep co sys = .next sys' →
    (sys.loop = .update → sys'.loop = .poll) ∧
    (sys.loop = .poll → queueContents sys.block.cfg sys.block.q = [] → sys'.loop = .update) ∧
    (sys.loop = .poll → ∀ i rest, queueContents sys.block.cfg sys.block.q = recordWord i :: rest →
      (i = .getTemp → ∃ t0 t1 t2 t3 : Half,
        Owes sys'.loop [0x20, BitVec.ofNat 8 sys.block.cfg.tempCount, t0.extractLsb' 8 8, t0.extractLsb' 0 8,
          t1.extractLsb' 8 8, t1.extractLsb' 0 8, t2.extractLsb' 8 8, t2.extractLsb' 0 8, t3.extractLsb' 8 8, t3.extractLsb' 0 8] ∧
        ∀ k : Fin 4, #v[t0, t1, t2, t3][k] = if k.val < sys.block.cfg.tempCount then co.temperature[k] else 0) ∧
      (i = .getFanRpm → sys'.loop = .rpmFirst) ∧
      (∀ channel, i = .getFanPwm channel → sys'.loop = .getPwm channel) ∧
      (∀ channel pwm, i = .setFanPwm channel pwm → sys'.loop = .setPwm channel pwm) ∧
      (∀ addrH addrL, i = .eeReadByte addrH addrL → Owes sys'.loop [0x40, 0x01, co.readByte]) ∧
      (∀ addrH addrL value, i = .eeWriteByte addrH addrL value → Owes sys'.loop [if co.writeOk then 0x41 else 0xFF])) ∧
    (sys.loop = .rpmFirst → sys'.loop = .rpmSecond (rpmOf sys.block 0)) ∧
    (∀ r0, sys.loop = .rpmSecond r0 →
      Owes sys'.loop [0x30, BitVec.ofNat 8 sys.block.cfg.fanCount, r0.extractLsb' 8 8, r0.extractLsb' 0 8,
        (rpmOf sys.block 1).extractLsb' 8 8, (rpmOf sys.block 1).extractLsb' 0 8]) ∧
    (∀ channel, sys.loop = .getPwm channel → ∃ percent : Byte, Owes sys'.loop [0x31, channel, percent] ∧
      (∀ c : Fin Extent.fans, c.val = channel.toNat → c.val < sys.block.cfg.fanCount →
        percent.toNat = (sys.block.cfg.timerTop - sys.block.pwm.duty[c].toNat) * 100 / sys.block.cfg.timerTop) ∧
      (sys.block.cfg.fanCount ≤ channel.toNat → percent = 0)) ∧
    (∀ channel pwm, sys.loop = .setPwm channel pwm →
      Owes sys'.loop [if channel.toNat < sys.block.cfg.fanCount ∧ pwm.toNat ≤ 100 then 0x32 else 0xFF])

/-! ## The other agents -/

/-- R250's and R288's fairness of the UART put to use: under it no emission lasts for ever. The fairness is the model's reading of R250,
`UartIsFair`: a byte offered is met by `tx_ready` in that step or a later one (DEDUCED, log 22). -/
def Obligations.FairUartEndsEveryEmission : Prop :=
  ∀ (env : Nat → Inputs) (run : Nat → State), Inv (run 0) → IsRun env run → UartIsFair env run →
    ∀ n, (run n).tx.state = .emit → ∃ m, n < m ∧ (run m).tx.state ≠ .emit

/-- R250's tick rate put to use, "for MS_CLOCK to count milliseconds": over any CLK_HZ / 1000 steps without reset, MS_CLOCK advances by
exactly one (the rate as log 22 reads it). -/
def Obligations.TickRateMakesTheClockCountMilliseconds : Prop :=
  ∀ (env : Nat → Inputs) (run : Nat → State), IsRun env run → TicksEachMillisecond (run 0).cfg env →
    ∀ n, (∀ k, k < stepsPerMs (run 0).cfg → (env (n + k)).rst = false) →
      (run (n + stepsPerMs (run 0).cfg)).msClock = (run n).msClock + 1
end

