-- ==== Sys2Proof/Laws/Crc.lean ====
section
/-! SUPPORT. The CRC8 checker: the fold it is, the step's linearity, and the sequence laws that follow (40_crc8.md R130, R131). -/

namespace Sys2Proof.Machine

/-- `forced` is application. -/
theorem forced_eq {α : Type} (b : Byte) (k : Byte → α) : forced b k = k b := by
  unfold forced
  split
  · next h => exact congrArg k (BitVec.eq_of_toNat_eq (by simpa using h.symm))
  · next n h =>
    refine congrArg k (BitVec.eq_of_toNat_eq ?_)
    have := b.isLt
    simp only [BitVec.toNat_ofNat]
    omega

/-- The loop of R130 is a fold of the step. -/
theorem crc8From_eq_foldl (poly crc : Byte) (bytes : List Byte) :
    crc8From poly crc bytes = bytes.foldl (crc8Step poly) crc := by
  induction bytes generalizing crc with
  | nil => rfl
  | cons b rest ih => simp [crc8From, forced_eq, ih]

/-- The CRC of a sequence goes on from the CRC of its front. -/
theorem crc8_append (cfg : Config) (front back : List Byte) :
    crc8 cfg (front ++ back) = back.foldl (crc8Step cfg.crcPoly) (crc8 cfg front) := by
  simp [crc8, crc8From_eq_foldl]

/-- One round is linear. -/
theorem crcRound_xor (poly crc b crc' b' : Byte) :
    crcRound poly (crc ^^^ crc') (b ^^^ b') = crcRound poly crc b ^^^ crcRound poly crc' b' := by
  have hmix : ((crc ^^^ crc') ^^^ (b ^^^ b')).getLsbD 0 =
      Bool.xor ((crc ^^^ b).getLsbD 0) ((crc' ^^^ b').getLsbD 0) := by
    simp only [BitVec.getLsbD_xor]
    cases crc.getLsbD 0 <;> cases crc'.getLsbD 0 <;> cases b.getLsbD 0 <;> cases b'.getLsbD 0 <;> rfl
  unfold crcRound
  rw [hmix, BitVec.ushiftRight_xor_distrib]
  cases (crc ^^^ b).getLsbD 0 <;> cases (crc' ^^^ b').getLsbD 0 <;> simp <;> ac_nf
  simp

/-- Any number of rounds is linear. -/
theorem crcRounds_xor (poly : Byte) (k : Nat) (crc b crc' b' : Byte) :
    crcRounds poly k (crc ^^^ crc') (b ^^^ b') = crcRounds poly k crc b ^^^ crcRounds poly k crc' b' := by
  induction k generalizing crc b crc' b' with
  | zero => rfl
  | succ k ih => simp only [crcRounds, crcRound_xor, BitVec.ushiftRight_xor_distrib, ih]

/-- The step of R131 is linear. -/
theorem crc8Step_xor (poly crc b crc' b' : Byte) :
    crc8Step poly (crc ^^^ crc') (b ^^^ b') = crc8Step poly crc b ^^^ crc8Step poly crc' b' := crcRounds_xor poly 8 crc b crc' b'

/-- On equal CRC and data a round only shifts. -/
theorem crcRound_self (poly x : Byte) : crcRound poly x x = x >>> 1 := by simp [crcRound]

/-- A byte equal to the running CRC brings it to zero, whatever the polynomial. -/
theorem crc8Step_self (poly x : Byte) : crc8Step poly x x = 0 := by
  simp only [crc8Step, crcRounds, crcRound_self]
  apply BitVec.eq_of_toNat_eq
  have := x.isLt
  simp [Nat.shiftRight_eq_div_pow]
  omega

/-- On zero data only a zero CRC steps to zero, with the polynomial 0x8C. -/
theorem crc8Step_zero_data (x : Byte) : crc8Step 0x8C x 0 = 0 → x = 0 := by
  revert x; decide

end Sys2Proof.Machine
end

