-- ==== Sys2Proof/Laws/Encoding.lean ====
section
/-! SUPPORT. The decoders and the encoder, form by form: what a dispatch word's fields and a frame's bytes decode to. -/

namespace Sys2Proof

/-! ## Fields -/

theorem toNat_append_add {m n : Nat} (x : BitVec m) (y : BitVec n) :
    (x ++ y).toNat = x.toNat * 2 ^ n + y.toNat := by
  rw [BitVec.toNat_append, ← Nat.shiftLeft_add_eq_or_of_lt y.isLt, Nat.shiftLeft_eq]

theorem packBytes_toNat (b3 b2 b1 b0 : Byte) :
    (packBytes b3 b2 b1 b0).toNat =
      b3.toNat * 16777216 + b2.toNat * 65536 + b1.toNat * 256 + b0.toNat := by
  simp only [packBytes, toNat_append_add]; omega

theorem byteOf_toNat (w : Word) (k : Nat) : (byteOf w k).toNat = w.toNat / 2 ^ (8 * k) % 256 := by
  simp [byteOf, Nat.shiftRight_eq_div_pow]

theorem extract_toNat (w : Word) (k n : Nat) : (w.extractLsb' k n).toNat = w.toNat / 2 ^ k % 2 ^ n := by
  simp [Nat.shiftRight_eq_div_pow]

theorem byteOf_pack_0 (b3 b2 b1 b0 : Byte) : byteOf (packBytes b3 b2 b1 b0) 0 = b0 := by
  apply BitVec.eq_of_toNat_eq
  have := b0.isLt
  simp only [byteOf_toNat, packBytes_toNat, Nat.reduceMul, Nat.reducePow]; omega

theorem byteOf_pack_1 (b3 b2 b1 b0 : Byte) : byteOf (packBytes b3 b2 b1 b0) 1 = b1 := by
  apply BitVec.eq_of_toNat_eq
  have := b0.isLt; have := b1.isLt
  simp only [byteOf_toNat, packBytes_toNat, Nat.reduceMul, Nat.reducePow]; omega

theorem byteOf_pack_2 (b3 b2 b1 b0 : Byte) : byteOf (packBytes b3 b2 b1 b0) 2 = b2 := by
  apply BitVec.eq_of_toNat_eq
  have := b0.isLt; have := b1.isLt; have := b2.isLt
  simp only [byteOf_toNat, packBytes_toNat, Nat.reduceMul, Nat.reducePow]; omega

theorem byteOf_pack_3 (b3 b2 b1 b0 : Byte) : byteOf (packBytes b3 b2 b1 b0) 3 = b3 := by
  apply BitVec.eq_of_toNat_eq
  have := b0.isLt; have := b1.isLt; have := b2.isLt; have := b3.isLt
  simp only [byteOf_toNat, packBytes_toNat, Nat.reduceMul, Nat.reducePow]; omega

/-- A word is its four bytes. -/
theorem pack_byteOf (w : Word) : packBytes (byteOf w 3) (byteOf w 2) (byteOf w 1) (byteOf w 0) = w := by
  apply BitVec.eq_of_toNat_eq
  have := w.isLt
  simp only [packBytes_toNat, byteOf_toNat, Nat.reduceMul, Nat.reducePow]; omega

/-! ## Dispatch words -/

/-- What the dispatch word of an operation code below 8 decodes to (R100). -/
theorem decodeWord_dpWordOf (op a b : Byte) (h : op.toNat < 8) :
    decodeWord (dpWordOf op a b) =
      if op = 0 then .ok (.nop a b)
      else if op = 1 then .ok (.qpop a b)
      else if op = 2 then .ok (.setpwm a b)
      else if op = 3 then .ok (.getpwm a b)
      else if op = 4 then .ok (.getrpm a b)
      else if op = 5 then .ok (.update a b)
      else if op = 6 then .ok (.send a b)
      else .error .reservedOp := by
  have hreserved : (dpWordOf op a b).extractLsb' 3 5 = 0 := by
    apply BitVec.eq_of_toNat_eq; rw [extract_toNat, dpWordOf, packBytes_toNat]; simp; omega
  have hop : (dpWordOf op a b).extractLsb' 0 3 = op.setWidth 3 := by
    apply BitVec.eq_of_toNat_eq; rw [extract_toNat, dpWordOf, packBytes_toNat]; simp; omega
  have hcode : ∀ k : Byte, k.toNat < 8 → (op.setWidth 3 = k.setWidth 3 ↔ op = k) := by
    intro k hk
    rw [← BitVec.toNat_inj, ← BitVec.toNat_inj]; simp; omega
  unfold decodeWord
  simp only [hreserved, hop]
  simp only [dpWordOf, byteOf_pack_1, byteOf_pack_2, byteOf_pack_3, ne_eq, not_true_eq_false, or_self, if_false]
  simp only [show (0b000#3) = (0 : Byte).setWidth 3 from rfl, show (0b001#3) = (1 : Byte).setWidth 3 from rfl,
    show (0b010#3) = (2 : Byte).setWidth 3 from rfl, show (0b011#3) = (3 : Byte).setWidth 3 from rfl,
    show (0b100#3) = (4 : Byte).setWidth 3 from rfl, show (0b101#3) = (5 : Byte).setWidth 3 from rfl,
    show (0b110#3) = (6 : Byte).setWidth 3 from rfl,
    hcode 0 (by decide), hcode 1 (by decide), hcode 2 (by decide), hcode 3 (by decide), hcode 4 (by decide),
    hcode 5 (by decide), hcode 6 (by decide)]

/-- A word with its reserved bits 0 is the dispatch word of its fields. -/
theorem dpWordOf_fields (w : Word) (op : Byte) (hop : op.toNat < 8) (h0 : w.extractLsb' 0 3 = op.setWidth 3)
    (h1 : w.extractLsb' 3 5 = 0) (h2 : byteOf w 3 = 0) : dpWordOf op (byteOf w 1) (byteOf w 2) = w := by
  have e0 := congrArg BitVec.toNat h0
  have e1 := congrArg BitVec.toNat h1
  have e2 := congrArg BitVec.toNat h2
  rw [extract_toNat] at e0 e1
  rw [byteOf_toNat] at e2
  simp at e0 e1 e2
  have := w.isLt
  apply BitVec.eq_of_toNat_eq
  simp only [dpWordOf, packBytes_toNat, byteOf_toNat]
  simp
  omega

/-! ## Request frames -/

/-- The trailer test of a frame is equality with the CRC of what stands before the last byte (R92). -/
theorem trailerMatches_append (cfg : Config) (body : List Byte) (x : Byte) :
    trailerMatches cfg (body ++ [x]) = decide (x = Machine.crc8 cfg body) := by
  simp [trailerMatches]

/-- The literals of a request frame in a legal configuration (R6). -/
theorem valid_frame {cfg : Config} (h : cfg.valid = true) : cfg.rxStartByte = 0xAA ∧ cfg.rxLenMin = 2 ∧ cfg.rxLenMax = 5 := by
  simp only [Config.valid, decide_eq_true_eq] at h
  exact ⟨h.1, h.2.2.1, h.2.2.2.1⟩

/-- A sequence of the right start, length and extent decodes by its trailer and its command (R144). -/
theorem decodeFrame_wellShaped {cfg : Config} (hv : cfg.valid = true) (cmd : Byte) (args : List Byte) (x : Byte)
    (h : args.length ≤ 3) :
    decodeFrame cfg ([0xAA, BitVec.ofNat 8 (args.length + 2), cmd] ++ args ++ [x]) =
      if x = Machine.crc8 cfg ([0xAA, BitVec.ofNat 8 (args.length + 2), cmd] ++ args) then decodeCommand cmd args
      else .error .crcMismatch := by
  obtain ⟨hs, hmin, hmax⟩ := valid_frame hv
  have hl : (BitVec.ofNat 8 (args.length + 2)).toNat = args.length + 2 := by simp; omega
  have ht := trailerMatches_append cfg ([0xAA, BitVec.ofNat 8 (args.length + 2), cmd] ++ args) x
  simp only [List.cons_append, List.nil_append] at ht ⊢
  rw [decodeFrame]
  simp only [hl, hs, hmin, hmax]
  rw [if_neg (by decide), if_neg (by omega), if_neg (by simp), ht]
  by_cases hx : x = Machine.crc8 cfg (0xAA :: BitVec.ofNat 8 (args.length + 2) :: cmd :: args) <;> simp [hx]

/-- A frame as the encoder lays it out, from the start byte 0xAA. -/
theorem frameOf_eq {cfg : Config} (hv : cfg.valid = true) (cmd : Byte) (args : List Byte) :
    frameOf cfg cmd args = [0xAA, BitVec.ofNat 8 (args.length + 2), cmd] ++ args ++
      [Machine.crc8 cfg ([0xAA, BitVec.ofNat 8 (args.length + 2), cmd] ++ args)] := by
  rw [frameOf, (valid_frame hv).1]

/-- A frame the encoder lays out has a matching trailer, so its command alone decides (R103, R105). -/
theorem decodeFrame_frameOf {cfg : Config} (hv : cfg.valid = true) (cmd : Byte) (args : List Byte) (h : args.length ≤ 3) :
    decodeFrame cfg (frameOf cfg cmd args) = decodeCommand cmd args := by
  rw [frameOf_eq hv]
  exact (decodeFrame_wellShaped hv cmd args _ h).trans (if_pos rfl)

/-- A frame has L + 2 bytes (R90). -/
theorem frameOf_length (cfg : Config) (cmd : Byte) (args : List Byte) : (frameOf cfg cmd args).length = args.length + 4 := by
  simp [frameOf]

/-- A command that decodes is one of R93's with its required length. -/
theorem decodeCommand_ok (cfg : Config) {cmd : Byte} {args : List Byte} {i : Instr} (h : decodeCommand cmd args = .ok i) :
    encode cfg i = .frame (frameOf cfg cmd args) ∧ requiredLen cmd = some (args.length + 2) ∧ args.length ≤ 3 := by
  unfold decodeCommand at h
  iterate 7
    split at h
    · subst_vars
      split at h
      · simp only [Except.ok.injEq] at h; subst h; exact ⟨rfl, rfl, by simp⟩
      · simp at h
  simp at h

/-- A known command with its required length decodes. -/
theorem decodeCommand_known {cmd : Byte} {args : List Byte} (h : requiredLen cmd = some (args.length + 2)) :
    ∃ i, decodeCommand cmd args = .ok i := by
  unfold requiredLen at h
  unfold decodeCommand
  iterate 7
    split at h
    · simp only [Option.some.injEq, Nat.reduceEqDiff] at h
      match args, h with
      | [], _ => simp_all
      | [_], _ => simp_all
      | [_, _], _ => simp_all
      | [_, _, _], _ => simp_all
      | _ :: _ :: _ :: _ :: _, h => simp at h
  simp at h

/-- A known command with another length is a length mismatch (R105). -/
theorem decodeCommand_badLength {cmd : Byte} {args : List Byte} {L : Nat} (hk : requiredLen cmd = some L)
    (h : L ≠ args.length + 2) : decodeCommand cmd args = .error .lengthMismatch := by
  unfold requiredLen at hk
  unfold decodeCommand
  iterate 7
    split at hk
    · simp only [Option.some.injEq] at hk
      subst hk
      match args, h with
      | [], _ => simp_all
      | [_], _ => simp_all
      | [_, _], _ => simp_all
      | [_, _, _], _ => simp_all
      | _ :: _ :: _ :: _ :: _, h => simp_all
  simp at hk

/-- A command byte outside R93's seven is unknown (R103). -/
theorem decodeCommand_unknown {cmd : Byte} (args : List Byte) (h : requiredLen cmd = none) :
    decodeCommand cmd args = .error .unknownCommand := by
  unfold requiredLen at h
  unfold decodeCommand
  iterate 7
    split at h
    · simp at h
  simp_all

end Sys2Proof
end

