-- ==== Sys2Proof/Laws/State.lean ====
section
/-! SUPPORT. What each operation and phase leaves alone: one lemma per field of State per update. A proof cites these (they are
simp lemmas) and unfolds no record update. -/

namespace Sys2Proof.Machine

/-! ### raise writes out -/

@[simp] theorem raise_cfg (k : ErrKind) (s : State) : (raise k s).cfg = s.cfg := rfl
@[simp] theorem raise_msClock (k : ErrKind) (s : State) : (raise k s).msClock = s.msClock := rfl
@[simp] theorem raise_rx (k : ErrKind) (s : State) : (raise k s).rx = s.rx := rfl
@[simp] theorem raise_q (k : ErrKind) (s : State) : (raise k s).q = s.q := rfl
@[simp] theorem raise_pwm (k : ErrKind) (s : State) : (raise k s).pwm = s.pwm := rfl
@[simp] theorem raise_tach (k : ErrKind) (s : State) : (raise k s).tach = s.tach := rfl
@[simp] theorem raise_tx (k : ErrKind) (s : State) : (raise k s).tx = s.tx := rfl
@[simp] theorem raise_inp (k : ErrKind) (s : State) : (raise k s).inp = s.inp := rfl
@[simp] theorem raise_wires (k : ErrKind) (s : State) : (raise k s).wires = s.wires := rfl
@[simp] theorem raise_script (k : ErrKind) (s : State) : (raise k s).script = s.script := rfl
@[simp] theorem raise_stepNo (k : ErrKind) (s : State) : (raise k s).stepNo = s.stepNo := rfl

/-! ### raiseIf writes out -/

@[simp] theorem raiseIf_cfg (b : Bool) (k : ErrKind) (s : State) : (raiseIf b k s).cfg = s.cfg := by cases b <;> rfl
@[simp] theorem raiseIf_msClock (b : Bool) (k : ErrKind) (s : State) : (raiseIf b k s).msClock = s.msClock := by cases b <;> rfl
@[simp] theorem raiseIf_rx (b : Bool) (k : ErrKind) (s : State) : (raiseIf b k s).rx = s.rx := by cases b <;> rfl
@[simp] theorem raiseIf_q (b : Bool) (k : ErrKind) (s : State) : (raiseIf b k s).q = s.q := by cases b <;> rfl
@[simp] theorem raiseIf_pwm (b : Bool) (k : ErrKind) (s : State) : (raiseIf b k s).pwm = s.pwm := by cases b <;> rfl
@[simp] theorem raiseIf_tach (b : Bool) (k : ErrKind) (s : State) : (raiseIf b k s).tach = s.tach := by cases b <;> rfl
@[simp] theorem raiseIf_tx (b : Bool) (k : ErrKind) (s : State) : (raiseIf b k s).tx = s.tx := by cases b <;> rfl
@[simp] theorem raiseIf_inp (b : Bool) (k : ErrKind) (s : State) : (raiseIf b k s).inp = s.inp := by cases b <;> rfl
@[simp] theorem raiseIf_wires (b : Bool) (k : ErrKind) (s : State) : (raiseIf b k s).wires = s.wires := by cases b <;> rfl
@[simp] theorem raiseIf_script (b : Bool) (k : ErrKind) (s : State) : (raiseIf b k s).script = s.script := by cases b <;> rfl
@[simp] theorem raiseIf_stepNo (b : Bool) (k : ErrKind) (s : State) : (raiseIf b k s).stepNo = s.stepNo := by cases b <;> rfl

/-! ### respond writes out -/

@[simp] theorem respond_cfg (r : DpStatus) (d : Word) (s : State) : (respond r d s).cfg = s.cfg := rfl
@[simp] theorem respond_msClock (r : DpStatus) (d : Word) (s : State) : (respond r d s).msClock = s.msClock := rfl
@[simp] theorem respond_rx (r : DpStatus) (d : Word) (s : State) : (respond r d s).rx = s.rx := rfl
@[simp] theorem respond_q (r : DpStatus) (d : Word) (s : State) : (respond r d s).q = s.q := rfl
@[simp] theorem respond_pwm (r : DpStatus) (d : Word) (s : State) : (respond r d s).pwm = s.pwm := rfl
@[simp] theorem respond_tach (r : DpStatus) (d : Word) (s : State) : (respond r d s).tach = s.tach := rfl
@[simp] theorem respond_tx (r : DpStatus) (d : Word) (s : State) : (respond r d s).tx = s.tx := rfl
@[simp] theorem respond_inp (r : DpStatus) (d : Word) (s : State) : (respond r d s).inp = s.inp := rfl
@[simp] theorem respond_wires (r : DpStatus) (d : Word) (s : State) : (respond r d s).wires = s.wires := rfl
@[simp] theorem respond_script (r : DpStatus) (d : Word) (s : State) : (respond r d s).script = s.script := rfl
@[simp] theorem respond_stepNo (r : DpStatus) (d : Word) (s : State) : (respond r d s).stepNo = s.stepNo := rfl

/-! ### announce writes out -/

@[simp] theorem announce_cfg (w : Word) (s : State) : (announce w s).cfg = s.cfg := rfl
@[simp] theorem announce_msClock (w : Word) (s : State) : (announce w s).msClock = s.msClock := rfl
@[simp] theorem announce_rx (w : Word) (s : State) : (announce w s).rx = s.rx := rfl
@[simp] theorem announce_q (w : Word) (s : State) : (announce w s).q = s.q := rfl
@[simp] theorem announce_pwm (w : Word) (s : State) : (announce w s).pwm = s.pwm := rfl
@[simp] theorem announce_tach (w : Word) (s : State) : (announce w s).tach = s.tach := rfl
@[simp] theorem announce_tx (w : Word) (s : State) : (announce w s).tx = s.tx := rfl
@[simp] theorem announce_inp (w : Word) (s : State) : (announce w s).inp = s.inp := rfl
@[simp] theorem announce_wires (w : Word) (s : State) : (announce w s).wires = s.wires := rfl
@[simp] theorem announce_script (w : Word) (s : State) : (announce w s).script = s.script := rfl
@[simp] theorem announce_stepNo (w : Word) (s : State) : (announce w s).stepNo = s.stepNo := rfl

/-! ### requestPush writes wires -/

@[simp] theorem requestPush_cfg (w : Word) (s : State) : (requestPush w s).cfg = s.cfg := rfl
@[simp] theorem requestPush_msClock (w : Word) (s : State) : (requestPush w s).msClock = s.msClock := rfl
@[simp] theorem requestPush_rx (w : Word) (s : State) : (requestPush w s).rx = s.rx := rfl
@[simp] theorem requestPush_q (w : Word) (s : State) : (requestPush w s).q = s.q := rfl
@[simp] theorem requestPush_pwm (w : Word) (s : State) : (requestPush w s).pwm = s.pwm := rfl
@[simp] theorem requestPush_tach (w : Word) (s : State) : (requestPush w s).tach = s.tach := rfl
@[simp] theorem requestPush_tx (w : Word) (s : State) : (requestPush w s).tx = s.tx := rfl
@[simp] theorem requestPush_inp (w : Word) (s : State) : (requestPush w s).inp = s.inp := rfl
@[simp] theorem requestPush_out (w : Word) (s : State) : (requestPush w s).out = s.out := rfl
@[simp] theorem requestPush_script (w : Word) (s : State) : (requestPush w s).script = s.script := rfl
@[simp] theorem requestPush_stepNo (w : Word) (s : State) : (requestPush w s).stepNo = s.stepNo := rfl

/-! ### enqueue writes out, wires -/

@[simp] theorem enqueue_cfg (w : Word) (s : State) : (enqueue w s).cfg = s.cfg := rfl
@[simp] theorem enqueue_msClock (w : Word) (s : State) : (enqueue w s).msClock = s.msClock := rfl
@[simp] theorem enqueue_rx (w : Word) (s : State) : (enqueue w s).rx = s.rx := rfl
@[simp] theorem enqueue_q (w : Word) (s : State) : (enqueue w s).q = s.q := rfl
@[simp] theorem enqueue_pwm (w : Word) (s : State) : (enqueue w s).pwm = s.pwm := rfl
@[simp] theorem enqueue_tach (w : Word) (s : State) : (enqueue w s).tach = s.tach := rfl
@[simp] theorem enqueue_tx (w : Word) (s : State) : (enqueue w s).tx = s.tx := rfl
@[simp] theorem enqueue_inp (w : Word) (s : State) : (enqueue w s).inp = s.inp := rfl
@[simp] theorem enqueue_script (w : Word) (s : State) : (enqueue w s).script = s.script := rfl
@[simp] theorem enqueue_stepNo (w : Word) (s : State) : (enqueue w s).stepNo = s.stepNo := rfl

/-! ### toIdle writes rx -/

@[simp] theorem toIdle_cfg (s : State) : (toIdle s).cfg = s.cfg := rfl
@[simp] theorem toIdle_msClock (s : State) : (toIdle s).msClock = s.msClock := rfl
@[simp] theorem toIdle_q (s : State) : (toIdle s).q = s.q := rfl
@[simp] theorem toIdle_pwm (s : State) : (toIdle s).pwm = s.pwm := rfl
@[simp] theorem toIdle_tach (s : State) : (toIdle s).tach = s.tach := rfl
@[simp] theorem toIdle_tx (s : State) : (toIdle s).tx = s.tx := rfl
@[simp] theorem toIdle_inp (s : State) : (toIdle s).inp = s.inp := rfl
@[simp] theorem toIdle_out (s : State) : (toIdle s).out = s.out := rfl
@[simp] theorem toIdle_wires (s : State) : (toIdle s).wires = s.wires := rfl
@[simp] theorem toIdle_script (s : State) : (toIdle s).script = s.script := rfl
@[simp] theorem toIdle_stepNo (s : State) : (toIdle s).stepNo = s.stepNo := rfl

/-! ### probeRequest writes tx, out -/

@[simp] theorem probeRequest_cfg (s : State) : (probeRequest s).cfg = s.cfg := by unfold probeRequest; split <;> rfl
@[simp] theorem probeRequest_msClock (s : State) : (probeRequest s).msClock = s.msClock := by unfold probeRequest; split <;> rfl
@[simp] theorem probeRequest_rx (s : State) : (probeRequest s).rx = s.rx := by unfold probeRequest; split <;> rfl
@[simp] theorem probeRequest_q (s : State) : (probeRequest s).q = s.q := by unfold probeRequest; split <;> rfl
@[simp] theorem probeRequest_pwm (s : State) : (probeRequest s).pwm = s.pwm := by unfold probeRequest; split <;> rfl
@[simp] theorem probeRequest_tach (s : State) : (probeRequest s).tach = s.tach := by unfold probeRequest; split <;> rfl
@[simp] theorem probeRequest_inp (s : State) : (probeRequest s).inp = s.inp := by unfold probeRequest; split <;> rfl
@[simp] theorem probeRequest_wires (s : State) : (probeRequest s).wires = s.wires := by unfold probeRequest; split <;> rfl
@[simp] theorem probeRequest_script (s : State) : (probeRequest s).script = s.script := by unfold probeRequest; split <;> rfl
@[simp] theorem probeRequest_stepNo (s : State) : (probeRequest s).stepNo = s.stepNo := by unfold probeRequest; split <;> rfl

/-! ### setDuty writes pwm -/

@[simp] theorem setDuty_cfg (c : Nat) (d : Half) (s : State) : (setDuty c d s).cfg = s.cfg := rfl
@[simp] theorem setDuty_msClock (c : Nat) (d : Half) (s : State) : (setDuty c d s).msClock = s.msClock := rfl
@[simp] theorem setDuty_rx (c : Nat) (d : Half) (s : State) : (setDuty c d s).rx = s.rx := rfl
@[simp] theorem setDuty_q (c : Nat) (d : Half) (s : State) : (setDuty c d s).q = s.q := rfl
@[simp] theorem setDuty_tach (c : Nat) (d : Half) (s : State) : (setDuty c d s).tach = s.tach := rfl
@[simp] theorem setDuty_tx (c : Nat) (d : Half) (s : State) : (setDuty c d s).tx = s.tx := rfl
@[simp] theorem setDuty_inp (c : Nat) (d : Half) (s : State) : (setDuty c d s).inp = s.inp := rfl
@[simp] theorem setDuty_out (c : Nat) (d : Half) (s : State) : (setDuty c d s).out = s.out := rfl
@[simp] theorem setDuty_wires (c : Nat) (d : Half) (s : State) : (setDuty c d s).wires = s.wires := rfl
@[simp] theorem setDuty_script (c : Nat) (d : Half) (s : State) : (setDuty c d s).script = s.script := rfl
@[simp] theorem setDuty_stepNo (c : Nat) (d : Half) (s : State) : (setDuty c d s).stepNo = s.stepNo := rfl

/-! ### closeWindow writes tach, wires -/

@[simp] theorem closeWindow_cfg (e : Nat) (s : State) : (closeWindow e s).cfg = s.cfg := rfl
@[simp] theorem closeWindow_msClock (e : Nat) (s : State) : (closeWindow e s).msClock = s.msClock := rfl
@[simp] theorem closeWindow_rx (e : Nat) (s : State) : (closeWindow e s).rx = s.rx := rfl
@[simp] theorem closeWindow_q (e : Nat) (s : State) : (closeWindow e s).q = s.q := rfl
@[simp] theorem closeWindow_pwm (e : Nat) (s : State) : (closeWindow e s).pwm = s.pwm := rfl
@[simp] theorem closeWindow_tx (e : Nat) (s : State) : (closeWindow e s).tx = s.tx := rfl
@[simp] theorem closeWindow_inp (e : Nat) (s : State) : (closeWindow e s).inp = s.inp := rfl
@[simp] theorem closeWindow_out (e : Nat) (s : State) : (closeWindow e s).out = s.out := rfl
@[simp] theorem closeWindow_script (e : Nat) (s : State) : (closeWindow e s).script = s.script := rfl
@[simp] theorem closeWindow_stepNo (e : Nat) (s : State) : (closeWindow e s).stepNo = s.stepNo := rfl

/-! ### loadFrame writes tx -/

@[simp] theorem loadFrame_cfg (p : List Byte) (s : State) : (loadFrame p s).cfg = s.cfg := rfl
@[simp] theorem loadFrame_msClock (p : List Byte) (s : State) : (loadFrame p s).msClock = s.msClock := rfl
@[simp] theorem loadFrame_rx (p : List Byte) (s : State) : (loadFrame p s).rx = s.rx := rfl
@[simp] theorem loadFrame_q (p : List Byte) (s : State) : (loadFrame p s).q = s.q := rfl
@[simp] theorem loadFrame_pwm (p : List Byte) (s : State) : (loadFrame p s).pwm = s.pwm := rfl
@[simp] theorem loadFrame_tach (p : List Byte) (s : State) : (loadFrame p s).tach = s.tach := rfl
@[simp] theorem loadFrame_inp (p : List Byte) (s : State) : (loadFrame p s).inp = s.inp := rfl
@[simp] theorem loadFrame_out (p : List Byte) (s : State) : (loadFrame p s).out = s.out := rfl
@[simp] theorem loadFrame_wires (p : List Byte) (s : State) : (loadFrame p s).wires = s.wires := rfl
@[simp] theorem loadFrame_script (p : List Byte) (s : State) : (loadFrame p s).script = s.script := rfl
@[simp] theorem loadFrame_stepNo (p : List Byte) (s : State) : (loadFrame p s).stepNo = s.stepNo := rfl

/-! ### beginFrame writes tx -/

@[simp] theorem beginFrame_cfg (p : List Byte) (s : State) : (beginFrame p s).cfg = s.cfg := rfl
@[simp] theorem beginFrame_msClock (p : List Byte) (s : State) : (beginFrame p s).msClock = s.msClock := rfl
@[simp] theorem beginFrame_rx (p : List Byte) (s : State) : (beginFrame p s).rx = s.rx := rfl
@[simp] theorem beginFrame_q (p : List Byte) (s : State) : (beginFrame p s).q = s.q := rfl
@[simp] theorem beginFrame_pwm (p : List Byte) (s : State) : (beginFrame p s).pwm = s.pwm := rfl
@[simp] theorem beginFrame_tach (p : List Byte) (s : State) : (beginFrame p s).tach = s.tach := rfl
@[simp] theorem beginFrame_inp (p : List Byte) (s : State) : (beginFrame p s).inp = s.inp := rfl
@[simp] theorem beginFrame_out (p : List Byte) (s : State) : (beginFrame p s).out = s.out := rfl
@[simp] theorem beginFrame_wires (p : List Byte) (s : State) : (beginFrame p s).wires = s.wires := rfl
@[simp] theorem beginFrame_script (p : List Byte) (s : State) : (beginFrame p s).script = s.script := rfl
@[simp] theorem beginFrame_stepNo (p : List Byte) (s : State) : (beginFrame p s).stepNo = s.stepNo := rfl

/-! ### stallCheck writes rx, out -/

@[simp] theorem stallCheck_cfg (s : State) : (stallCheck s).cfg = s.cfg := by unfold stallCheck; split <;> rfl
@[simp] theorem stallCheck_msClock (s : State) : (stallCheck s).msClock = s.msClock := by unfold stallCheck; split <;> rfl
@[simp] theorem stallCheck_q (s : State) : (stallCheck s).q = s.q := by unfold stallCheck; split <;> rfl
@[simp] theorem stallCheck_pwm (s : State) : (stallCheck s).pwm = s.pwm := by unfold stallCheck; split <;> rfl
@[simp] theorem stallCheck_tach (s : State) : (stallCheck s).tach = s.tach := by unfold stallCheck; split <;> rfl
@[simp] theorem stallCheck_tx (s : State) : (stallCheck s).tx = s.tx := by unfold stallCheck; split <;> rfl
@[simp] theorem stallCheck_inp (s : State) : (stallCheck s).inp = s.inp := by unfold stallCheck; split <;> rfl
@[simp] theorem stallCheck_wires (s : State) : (stallCheck s).wires = s.wires := by unfold stallCheck; split <;> rfl
@[simp] theorem stallCheck_script (s : State) : (stallCheck s).script = s.script := by unfold stallCheck; split <;> rfl
@[simp] theorem stallCheck_stepNo (s : State) : (stallCheck s).stepNo = s.stepNo := by unfold stallCheck; split <;> rfl

/-! ### rxIdle writes rx -/

@[simp] theorem rxIdle_cfg (b : Byte) (s : State) : (rxIdle b s).cfg = s.cfg := by unfold rxIdle; split <;> rfl
@[simp] theorem rxIdle_msClock (b : Byte) (s : State) : (rxIdle b s).msClock = s.msClock := by unfold rxIdle; split <;> rfl
@[simp] theorem rxIdle_q (b : Byte) (s : State) : (rxIdle b s).q = s.q := by unfold rxIdle; split <;> rfl
@[simp] theorem rxIdle_pwm (b : Byte) (s : State) : (rxIdle b s).pwm = s.pwm := by unfold rxIdle; split <;> rfl
@[simp] theorem rxIdle_tach (b : Byte) (s : State) : (rxIdle b s).tach = s.tach := by unfold rxIdle; split <;> rfl
@[simp] theorem rxIdle_tx (b : Byte) (s : State) : (rxIdle b s).tx = s.tx := by unfold rxIdle; split <;> rfl
@[simp] theorem rxIdle_inp (b : Byte) (s : State) : (rxIdle b s).inp = s.inp := by unfold rxIdle; split <;> rfl
@[simp] theorem rxIdle_out (b : Byte) (s : State) : (rxIdle b s).out = s.out := by unfold rxIdle; split <;> rfl
@[simp] theorem rxIdle_wires (b : Byte) (s : State) : (rxIdle b s).wires = s.wires := by unfold rxIdle; split <;> rfl
@[simp] theorem rxIdle_script (b : Byte) (s : State) : (rxIdle b s).script = s.script := by unfold rxIdle; split <;> rfl
@[simp] theorem rxIdle_stepNo (b : Byte) (s : State) : (rxIdle b s).stepNo = s.stepNo := by unfold rxIdle; split <;> rfl

/-! ### rxLen writes rx, out -/

@[simp] theorem rxLen_cfg (b : Byte) (s : State) : (rxLen b s).cfg = s.cfg := by unfold rxLen; split <;> rfl
@[simp] theorem rxLen_msClock (b : Byte) (s : State) : (rxLen b s).msClock = s.msClock := by unfold rxLen; split <;> rfl
@[simp] theorem rxLen_q (b : Byte) (s : State) : (rxLen b s).q = s.q := by unfold rxLen; split <;> rfl
@[simp] theorem rxLen_pwm (b : Byte) (s : State) : (rxLen b s).pwm = s.pwm := by unfold rxLen; split <;> rfl
@[simp] theorem rxLen_tach (b : Byte) (s : State) : (rxLen b s).tach = s.tach := by unfold rxLen; split <;> rfl
@[simp] theorem rxLen_tx (b : Byte) (s : State) : (rxLen b s).tx = s.tx := by unfold rxLen; split <;> rfl
@[simp] theorem rxLen_inp (b : Byte) (s : State) : (rxLen b s).inp = s.inp := by unfold rxLen; split <;> rfl
@[simp] theorem rxLen_wires (b : Byte) (s : State) : (rxLen b s).wires = s.wires := by unfold rxLen; split <;> rfl
@[simp] theorem rxLen_script (b : Byte) (s : State) : (rxLen b s).script = s.script := by unfold rxLen; split <;> rfl
@[simp] theorem rxLen_stepNo (b : Byte) (s : State) : (rxLen b s).stepNo = s.stepNo := by unfold rxLen; split <;> rfl

/-! ### storeByte writes rx -/

@[simp] theorem storeByte_cfg (b : Byte) (s : State) : (storeByte b s).cfg = s.cfg := rfl
@[simp] theorem storeByte_msClock (b : Byte) (s : State) : (storeByte b s).msClock = s.msClock := rfl
@[simp] theorem storeByte_q (b : Byte) (s : State) : (storeByte b s).q = s.q := rfl
@[simp] theorem storeByte_pwm (b : Byte) (s : State) : (storeByte b s).pwm = s.pwm := rfl
@[simp] theorem storeByte_tach (b : Byte) (s : State) : (storeByte b s).tach = s.tach := rfl
@[simp] theorem storeByte_tx (b : Byte) (s : State) : (storeByte b s).tx = s.tx := rfl
@[simp] theorem storeByte_inp (b : Byte) (s : State) : (storeByte b s).inp = s.inp := rfl
@[simp] theorem storeByte_out (b : Byte) (s : State) : (storeByte b s).out = s.out := rfl
@[simp] theorem storeByte_wires (b : Byte) (s : State) : (storeByte b s).wires = s.wires := rfl
@[simp] theorem storeByte_script (b : Byte) (s : State) : (storeByte b s).script = s.script := rfl
@[simp] theorem storeByte_stepNo (b : Byte) (s : State) : (storeByte b s).stepNo = s.stepNo := rfl

/-! ### startProbe writes tx -/

@[simp] theorem startProbe_cfg (s : State) : (startProbe s).cfg = s.cfg := by unfold startProbe; split <;> rfl
@[simp] theorem startProbe_msClock (s : State) : (startProbe s).msClock = s.msClock := by unfold startProbe; split <;> rfl
@[simp] theorem startProbe_rx (s : State) : (startProbe s).rx = s.rx := by unfold startProbe; split <;> rfl
@[simp] theorem startProbe_q (s : State) : (startProbe s).q = s.q := by unfold startProbe; split <;> rfl
@[simp] theorem startProbe_pwm (s : State) : (startProbe s).pwm = s.pwm := by unfold startProbe; split <;> rfl
@[simp] theorem startProbe_tach (s : State) : (startProbe s).tach = s.tach := by unfold startProbe; split <;> rfl
@[simp] theorem startProbe_inp (s : State) : (startProbe s).inp = s.inp := by unfold startProbe; split <;> rfl
@[simp] theorem startProbe_out (s : State) : (startProbe s).out = s.out := by unfold startProbe; split <;> rfl
@[simp] theorem startProbe_wires (s : State) : (startProbe s).wires = s.wires := by unfold startProbe; split <;> rfl
@[simp] theorem startProbe_script (s : State) : (startProbe s).script = s.script := by unfold startProbe; split <;> rfl
@[simp] theorem startProbe_stepNo (s : State) : (startProbe s).stepNo = s.stepNo := by unfold startProbe; split <;> rfl

/-! ### endSpacing writes tx -/

@[simp] theorem endSpacing_cfg (s : State) : (endSpacing s).cfg = s.cfg := by unfold endSpacing; split <;> rfl
@[simp] theorem endSpacing_msClock (s : State) : (endSpacing s).msClock = s.msClock := by unfold endSpacing; split <;> rfl
@[simp] theorem endSpacing_rx (s : State) : (endSpacing s).rx = s.rx := by unfold endSpacing; split <;> rfl
@[simp] theorem endSpacing_q (s : State) : (endSpacing s).q = s.q := by unfold endSpacing; split <;> rfl
@[simp] theorem endSpacing_pwm (s : State) : (endSpacing s).pwm = s.pwm := by unfold endSpacing; split <;> rfl
@[simp] theorem endSpacing_tach (s : State) : (endSpacing s).tach = s.tach := by unfold endSpacing; split <;> rfl
@[simp] theorem endSpacing_inp (s : State) : (endSpacing s).inp = s.inp := by unfold endSpacing; split <;> rfl
@[simp] theorem endSpacing_out (s : State) : (endSpacing s).out = s.out := by unfold endSpacing; split <;> rfl
@[simp] theorem endSpacing_wires (s : State) : (endSpacing s).wires = s.wires := by unfold endSpacing; split <;> rfl
@[simp] theorem endSpacing_script (s : State) : (endSpacing s).script = s.script := by unfold endSpacing; split <;> rfl
@[simp] theorem endSpacing_stepNo (s : State) : (endSpacing s).stepNo = s.stepNo := by unfold endSpacing; split <;> rfl

/-! ### emitByte writes tx, out -/

@[simp] theorem emitByte_cfg (s : State) : (emitByte s).cfg = s.cfg := by simp only [emitByte]; split <;> (try split) <;> rfl
@[simp] theorem emitByte_msClock (s : State) : (emitByte s).msClock = s.msClock := by simp only [emitByte]; split <;> (try split) <;> rfl
@[simp] theorem emitByte_rx (s : State) : (emitByte s).rx = s.rx := by simp only [emitByte]; split <;> (try split) <;> rfl
@[simp] theorem emitByte_q (s : State) : (emitByte s).q = s.q := by simp only [emitByte]; split <;> (try split) <;> rfl
@[simp] theorem emitByte_pwm (s : State) : (emitByte s).pwm = s.pwm := by simp only [emitByte]; split <;> (try split) <;> rfl
@[simp] theorem emitByte_tach (s : State) : (emitByte s).tach = s.tach := by simp only [emitByte]; split <;> (try split) <;> rfl
@[simp] theorem emitByte_inp (s : State) : (emitByte s).inp = s.inp := by simp only [emitByte]; split <;> (try split) <;> rfl
@[simp] theorem emitByte_wires (s : State) : (emitByte s).wires = s.wires := by simp only [emitByte]; split <;> (try split) <;> rfl
@[simp] theorem emitByte_script (s : State) : (emitByte s).script = s.script := by simp only [emitByte]; split <;> (try split) <;> rfl
@[simp] theorem emitByte_stepNo (s : State) : (emitByte s).stepNo = s.stepNo := by simp only [emitByte]; split <;> (try split) <;> rfl

/-! ### showBusy writes out -/

@[simp] theorem showBusy_cfg (s : State) : (showBusy s).cfg = s.cfg := rfl
@[simp] theorem showBusy_msClock (s : State) : (showBusy s).msClock = s.msClock := rfl
@[simp] theorem showBusy_rx (s : State) : (showBusy s).rx = s.rx := rfl
@[simp] theorem showBusy_q (s : State) : (showBusy s).q = s.q := rfl
@[simp] theorem showBusy_pwm (s : State) : (showBusy s).pwm = s.pwm := rfl
@[simp] theorem showBusy_tach (s : State) : (showBusy s).tach = s.tach := rfl
@[simp] theorem showBusy_tx (s : State) : (showBusy s).tx = s.tx := rfl
@[simp] theorem showBusy_inp (s : State) : (showBusy s).inp = s.inp := rfl
@[simp] theorem showBusy_wires (s : State) : (showBusy s).wires = s.wires := rfl
@[simp] theorem showBusy_script (s : State) : (showBusy s).script = s.script := rfl
@[simp] theorem showBusy_stepNo (s : State) : (showBusy s).stepNo = s.stepNo := rfl

/-! ### pwmPhase writes pwm, out -/

@[simp] theorem pwmPhase_cfg (s : State) : (pwmPhase s).cfg = s.cfg := rfl
@[simp] theorem pwmPhase_msClock (s : State) : (pwmPhase s).msClock = s.msClock := rfl
@[simp] theorem pwmPhase_rx (s : State) : (pwmPhase s).rx = s.rx := rfl
@[simp] theorem pwmPhase_q (s : State) : (pwmPhase s).q = s.q := rfl
@[simp] theorem pwmPhase_tach (s : State) : (pwmPhase s).tach = s.tach := rfl
@[simp] theorem pwmPhase_tx (s : State) : (pwmPhase s).tx = s.tx := rfl
@[simp] theorem pwmPhase_inp (s : State) : (pwmPhase s).inp = s.inp := rfl
@[simp] theorem pwmPhase_wires (s : State) : (pwmPhase s).wires = s.wires := rfl
@[simp] theorem pwmPhase_script (s : State) : (pwmPhase s).script = s.script := rfl
@[simp] theorem pwmPhase_stepNo (s : State) : (pwmPhase s).stepNo = s.stepNo := rfl

/-! ### clockPhase writes msClock -/

@[simp] theorem clockPhase_cfg (s : State) : (clockPhase s).cfg = s.cfg := by unfold clockPhase; split <;> rfl
@[simp] theorem clockPhase_rx (s : State) : (clockPhase s).rx = s.rx := by unfold clockPhase; split <;> rfl
@[simp] theorem clockPhase_q (s : State) : (clockPhase s).q = s.q := by unfold clockPhase; split <;> rfl
@[simp] theorem clockPhase_pwm (s : State) : (clockPhase s).pwm = s.pwm := by unfold clockPhase; split <;> rfl
@[simp] theorem clockPhase_tach (s : State) : (clockPhase s).tach = s.tach := by unfold clockPhase; split <;> rfl
@[simp] theorem clockPhase_tx (s : State) : (clockPhase s).tx = s.tx := by unfold clockPhase; split <;> rfl
@[simp] theorem clockPhase_inp (s : State) : (clockPhase s).inp = s.inp := by unfold clockPhase; split <;> rfl
@[simp] theorem clockPhase_out (s : State) : (clockPhase s).out = s.out := by unfold clockPhase; split <;> rfl
@[simp] theorem clockPhase_wires (s : State) : (clockPhase s).wires = s.wires := by unfold clockPhase; split <;> rfl
@[simp] theorem clockPhase_script (s : State) : (clockPhase s).script = s.script := by unfold clockPhase; split <;> rfl
@[simp] theorem clockPhase_stepNo (s : State) : (clockPhase s).stepNo = s.stepNo := by unfold clockPhase; split <;> rfl

/-! ### edgePhase writes tach, wires -/

@[simp] theorem edgePhase_cfg (s : State) : (edgePhase s).cfg = s.cfg := rfl
@[simp] theorem edgePhase_msClock (s : State) : (edgePhase s).msClock = s.msClock := rfl
@[simp] theorem edgePhase_rx (s : State) : (edgePhase s).rx = s.rx := rfl
@[simp] theorem edgePhase_q (s : State) : (edgePhase s).q = s.q := rfl
@[simp] theorem edgePhase_pwm (s : State) : (edgePhase s).pwm = s.pwm := rfl
@[simp] theorem edgePhase_tx (s : State) : (edgePhase s).tx = s.tx := rfl
@[simp] theorem edgePhase_inp (s : State) : (edgePhase s).inp = s.inp := rfl
@[simp] theorem edgePhase_out (s : State) : (edgePhase s).out = s.out := rfl
@[simp] theorem edgePhase_script (s : State) : (edgePhase s).script = s.script := rfl
@[simp] theorem edgePhase_stepNo (s : State) : (edgePhase s).stepNo = s.stepNo := rfl

/-! ### showCount writes out -/

@[simp] theorem showCount_cfg (s : State) : (showCount s).cfg = s.cfg := rfl
@[simp] theorem showCount_msClock (s : State) : (showCount s).msClock = s.msClock := rfl
@[simp] theorem showCount_rx (s : State) : (showCount s).rx = s.rx := rfl
@[simp] theorem showCount_q (s : State) : (showCount s).q = s.q := rfl
@[simp] theorem showCount_pwm (s : State) : (showCount s).pwm = s.pwm := rfl
@[simp] theorem showCount_tach (s : State) : (showCount s).tach = s.tach := rfl
@[simp] theorem showCount_tx (s : State) : (showCount s).tx = s.tx := rfl
@[simp] theorem showCount_inp (s : State) : (showCount s).inp = s.inp := rfl
@[simp] theorem showCount_wires (s : State) : (showCount s).wires = s.wires := rfl
@[simp] theorem showCount_script (s : State) : (showCount s).script = s.script := rfl
@[simp] theorem showCount_stepNo (s : State) : (showCount s).stepNo = s.stepNo := rfl

/-! ### pushRecord writes q, out -/

@[simp] theorem pushRecord_cfg (w : Word) (s : State) : (pushRecord w s).cfg = s.cfg := by unfold pushRecord; split <;> rfl
@[simp] theorem pushRecord_msClock (w : Word) (s : State) : (pushRecord w s).msClock = s.msClock := by unfold pushRecord; split <;> rfl
@[simp] theorem pushRecord_rx (w : Word) (s : State) : (pushRecord w s).rx = s.rx := by unfold pushRecord; split <;> rfl
@[simp] theorem pushRecord_pwm (w : Word) (s : State) : (pushRecord w s).pwm = s.pwm := by unfold pushRecord; split <;> rfl
@[simp] theorem pushRecord_tach (w : Word) (s : State) : (pushRecord w s).tach = s.tach := by unfold pushRecord; split <;> rfl
@[simp] theorem pushRecord_tx (w : Word) (s : State) : (pushRecord w s).tx = s.tx := by unfold pushRecord; split <;> rfl
@[simp] theorem pushRecord_inp (w : Word) (s : State) : (pushRecord w s).inp = s.inp := by unfold pushRecord; split <;> rfl
@[simp] theorem pushRecord_wires (w : Word) (s : State) : (pushRecord w s).wires = s.wires := by unfold pushRecord; split <;> rfl
@[simp] theorem pushRecord_script (w : Word) (s : State) : (pushRecord w s).script = s.script := by unfold pushRecord; split <;> rfl
@[simp] theorem pushRecord_stepNo (w : Word) (s : State) : (pushRecord w s).stepNo = s.stepNo := by unfold pushRecord; split <;> rfl

/-! ### pushPhase writes q, out, wires -/

@[simp] theorem pushPhase_cfg (s : State) : (pushPhase s).cfg = s.cfg := by unfold pushPhase; split <;> simp
@[simp] theorem pushPhase_msClock (s : State) : (pushPhase s).msClock = s.msClock := by unfold pushPhase; split <;> simp
@[simp] theorem pushPhase_rx (s : State) : (pushPhase s).rx = s.rx := by unfold pushPhase; split <;> simp
@[simp] theorem pushPhase_pwm (s : State) : (pushPhase s).pwm = s.pwm := by unfold pushPhase; split <;> simp
@[simp] theorem pushPhase_tach (s : State) : (pushPhase s).tach = s.tach := by unfold pushPhase; split <;> simp
@[simp] theorem pushPhase_tx (s : State) : (pushPhase s).tx = s.tx := by unfold pushPhase; split <;> simp
@[simp] theorem pushPhase_inp (s : State) : (pushPhase s).inp = s.inp := by unfold pushPhase; split <;> simp
@[simp] theorem pushPhase_script (s : State) : (pushPhase s).script = s.script := by unfold pushPhase; split <;> simp
@[simp] theorem pushPhase_stepNo (s : State) : (pushPhase s).stepNo = s.stepNo := by unfold pushPhase; split <;> simp

/-! ### countPhase writes tach, wires -/

@[simp] theorem countPhase_cfg (s : State) : (countPhase s).cfg = s.cfg := rfl
@[simp] theorem countPhase_msClock (s : State) : (countPhase s).msClock = s.msClock := rfl
@[simp] theorem countPhase_rx (s : State) : (countPhase s).rx = s.rx := rfl
@[simp] theorem countPhase_q (s : State) : (countPhase s).q = s.q := rfl
@[simp] theorem countPhase_pwm (s : State) : (countPhase s).pwm = s.pwm := rfl
@[simp] theorem countPhase_tx (s : State) : (countPhase s).tx = s.tx := rfl
@[simp] theorem countPhase_inp (s : State) : (countPhase s).inp = s.inp := rfl
@[simp] theorem countPhase_out (s : State) : (countPhase s).out = s.out := rfl
@[simp] theorem countPhase_script (s : State) : (countPhase s).script = s.script := rfl
@[simp] theorem countPhase_stepNo (s : State) : (countPhase s).stepNo = s.stepNo := rfl

/-! ### beginStep writes inp, out, wires, script, stepNo -/

@[simp] theorem beginStep_cfg (s : State) : (beginStep s).cfg = s.cfg := rfl
@[simp] theorem beginStep_msClock (s : State) : (beginStep s).msClock = s.msClock := rfl
@[simp] theorem beginStep_rx (s : State) : (beginStep s).rx = s.rx := rfl
@[simp] theorem beginStep_q (s : State) : (beginStep s).q = s.q := rfl
@[simp] theorem beginStep_pwm (s : State) : (beginStep s).pwm = s.pwm := rfl
@[simp] theorem beginStep_tach (s : State) : (beginStep s).tach = s.tach := rfl
@[simp] theorem beginStep_tx (s : State) : (beginStep s).tx = s.tx := rfl

/-! ### resetPhase writes msClock, rx, q, pwm, tach, tx, out, wires -/

@[simp] theorem resetPhase_cfg (s : State) : (resetPhase s).cfg = s.cfg := rfl
@[simp] theorem resetPhase_inp (s : State) : (resetPhase s).inp = s.inp := rfl
@[simp] theorem resetPhase_script (s : State) : (resetPhase s).script = s.script := rfl
@[simp] theorem resetPhase_stepNo (s : State) : (resetPhase s).stepNo = s.stepNo := rfl

/-! ### dispatchFetch writes out -/

@[simp] theorem dispatchFetch_cfg (s : State) : (dispatchFetch s).1.cfg = s.cfg := by
  unfold dispatchFetch; split <;> (try split) <;> rfl
@[simp] theorem dispatchFetch_msClock (s : State) : (dispatchFetch s).1.msClock = s.msClock := by
  unfold dispatchFetch; split <;> (try split) <;> rfl
@[simp] theorem dispatchFetch_rx (s : State) : (dispatchFetch s).1.rx = s.rx := by
  unfold dispatchFetch; split <;> (try split) <;> rfl
@[simp] theorem dispatchFetch_q (s : State) : (dispatchFetch s).1.q = s.q := by
  unfold dispatchFetch; split <;> (try split) <;> rfl
@[simp] theorem dispatchFetch_pwm (s : State) : (dispatchFetch s).1.pwm = s.pwm := by
  unfold dispatchFetch; split <;> (try split) <;> rfl
@[simp] theorem dispatchFetch_tach (s : State) : (dispatchFetch s).1.tach = s.tach := by
  unfold dispatchFetch; split <;> (try split) <;> rfl
@[simp] theorem dispatchFetch_tx (s : State) : (dispatchFetch s).1.tx = s.tx := by
  unfold dispatchFetch; split <;> (try split) <;> rfl
@[simp] theorem dispatchFetch_inp (s : State) : (dispatchFetch s).1.inp = s.inp := by
  unfold dispatchFetch; split <;> (try split) <;> rfl
@[simp] theorem dispatchFetch_wires (s : State) : (dispatchFetch s).1.wires = s.wires := by
  unfold dispatchFetch; split <;> (try split) <;> rfl
@[simp] theorem dispatchFetch_script (s : State) : (dispatchFetch s).1.script = s.script := by
  unfold dispatchFetch; split <;> (try split) <;> rfl
@[simp] theorem dispatchFetch_stepNo (s : State) : (dispatchFetch s).1.stepNo = s.stepNo := by
  unfold dispatchFetch; split <;> (try split) <;> rfl

end Sys2Proof.Machine
end

