-- ==== Sys2Proof/Laws/Ops.lean ====
section
/-! SUPPORT. The shared operations: outcomes in sequence, register arrays, events, the ring, the reply frame. -/

namespace Sys2Proof.Machine

/-! ## A legal configuration -/

/-- R6's constraints as numbers. -/
theorem valid_bounds {c : Config} (h : c.valid = true) :
    c.fanCount ≤ 2 ∧ c.tempCount ≤ 4 ∧ c.deviceId ≤ 255 ∧ 100 ≤ c.timerTop ∧ c.timerTop ≤ 65535 ∧
    1 ≤ c.rpmWindowMs ∧ 1 ≤ c.cyclesPerRev ∧ c.initDutyPercent ≤ 100 ∧ 13 ≤ c.txBufBytes ∧ c.txBufBytes ≤ 255 ∧
    1 ≤ c.probePendingMax ∧ c.txPayloadMax + 3 = c.txBufBytes := by
  simp only [Config.valid, decide_eq_true_eq] at h
  simp only [Config.txPayloadMax]
  omega

/-- The parameters R6 fixes. -/
theorem valid_fixed {c : Config} (h : c.valid = true) :
    c.rxStartByte = 0xAA ∧ c.txStartByte = 0xC5 ∧ c.rxLenMin = 2 ∧ c.rxLenMax = 5 ∧ c.rxBufBytes = 7 ∧ c.queueCap = 10 ∧
    c.maxFans = 2 ∧ c.rpmScale = 60000 ∧ c.crcPoly = 0x8C ∧ c.crcInit = 0x00 := by
  simp only [Config.valid, decide_eq_true_eq] at h
  obtain ⟨h1, h2, h3, h4, h5, h6, h7, h8⟩ := h
  exact ⟨h1, h2, h3, h4, by omega, h6, h7, by omega, by simp_all, by simp_all⟩

/-! ## Outcomes in sequence -/

@[simp] theorem andThen_next {α β : Type} (a : α) (f : α → Result β) : andThen (.next a) f = f a := rfl

/-- A sequence goes on exactly when both parts do. -/
theorem andThen_eq_next {α β : Type} {o : Result α} {f : α → Result β} {b : β} :
    andThen o f = .next b ↔ ∃ a, o = .next a ∧ f a = .next b := by
  cases o <;> simp [andThen]

/-- A sequence is refused exactly when one of its parts is. -/
theorem andThen_eq_refused {α β : Type} {o : Result α} {f : α → Result β} {r : Refusal} :
    andThen o f = .refused r ↔ o = .refused r ∨ ∃ a, o = .next a ∧ f a = .refused r := by
  cases o <;> simp [andThen]

/-! ## Register arrays -/

theorem rdAt_of_lt {α : Type} {n : Nat} (v : Vector α n) {i : Nat} (h : i < n) (d : α) : rdAt v i d = v[i] := by
  simp [rdAt, h]

theorem wrAt_of_lt {α : Type} {n : Nat} (v : Vector α n) {i : Nat} (h : i < n) (x : α) : wrAt v i x = v.set i x := by
  simp only [wrAt]
  exact Vector.ext fun j hj => by simp [Vector.getElem_setIfInBounds, Vector.getElem_set]

/-- A read after a write to the same index gives the value written. -/
theorem rdAt_wrAt_same {α : Type} {n : Nat} (v : Vector α n) {i : Nat} (h : i < n) (x d : α) :
    rdAt (wrAt v i x) i d = x := by
  rw [wrAt_of_lt v h, rdAt_of_lt _ h]; simp

/-- A write leaves every other index alone. -/
theorem rdAt_wrAt_ne {α : Type} {n : Nat} (v : Vector α n) {i j : Nat} (h : i ≠ j) (x d : α) :
    rdAt (wrAt v i x) j d = rdAt v j d := by
  simp [rdAt, wrAt, h]

@[simp] theorem perFan_get {α : Type} (f : Fin Extent.fans → α) (c : Fin Extent.fans) : (perFan f)[c] = f c := by
  obtain ⟨c, hc⟩ := c
  match c, hc with
  | 0, _ => rfl
  | 1, _ => rfl

/-- Two per-channel values are equal when they agree on both channels. -/
theorem perFan_ext {α : Type} {v w : PerFan α} (h : ∀ c : Fin Extent.fans, v[c] = w[c]) : v = w := by
  apply Vector.ext
  intro i hi
  exact h ⟨i, hi⟩

theorem channelActive_iff {cfg : Config} {c : Nat} : channelActive cfg c = true ↔ c < cfg.fanCount := by
  simp [channelActive]

/-! ## Events and responses -/

theorem raise_out (k : ErrKind) (s : State) :
    (raise k s).out = { s.out with errFlags := s.out.errFlags ||| k.mask } := rfl

theorem respond_out (r : DpStatus) (d : Word) (s : State) :
    (respond r d s).out = { s.out with dpRespValid := true, dpStatus := r, dpData := d } := rfl

theorem announce_out (w : Word) (s : State) :
    (announce w s).out = { s.out with rxCmdValid := true, rxCmd := w } := rfl

theorem raiseIf_out (b : Bool) (k : ErrKind) (s : State) :
    (raiseIf b k s).out = { s.out with errFlags := s.out.errFlags ||| (if b then k.mask else 0) } := by
  cases b <;> simp [raiseIf, raise]

/-- The masks as the 12 bit numbers of R260 give them. -/
theorem mask_eq (k : ErrKind) : k.mask = BitVec.ofNat 16 (2 ^ k.bit) := by
  cases k <;> rfl

/-! ## Owed replies -/

/-- At saturation a probe request is only flagged (R147). -/
theorem probeRequest_full {s : State} (h : s.tx.probePending.toNat = s.cfg.probePendingMax) :
    probeRequest s = raise .probeOverflow s := by
  unfold probeRequest; rw [if_pos h]

/-- Below saturation a probe request is counted (R147). -/
theorem probeRequest_room {s : State} (h : s.tx.probePending.toNat ≠ s.cfg.probePendingMax) :
    probeRequest s = { s with tx := { s.tx with probePending := oneMorePending s.inp.probePendingDraw s.tx.probePending } } := by
  unfold probeRequest; rw [if_neg h]

/-- Below 255 one more owed reply is counted (R44, R147). -/
theorem oneMorePending_toNat (draw : BitVec 8) {pending : BitVec 8} (h : pending.toNat < 255) :
    (oneMorePending draw pending).toNat = pending.toNat + 1 := by
  rw [oneMorePending, if_pos h, BitVec.toNat_add]
  exact Nat.mod_eq_of_lt (by simp; omega)

/-! ## The ring -/

/-- The occupied entries after an append (R170): the ones before and the new one last. -/
theorem queueContents_pushed {cfg : Config} (hq : cfg.queueCap = 10) (q : Queue) (rec : Word) (hc : q.count.toNat < cfg.queueCap) :
    queueContents cfg (q.pushed cfg rec) = queueContents cfg q ++ [rec] := by
  rw [hq] at hc
  have hcount : (q.count + 1).toNat = q.count.toNat + 1 := by
    simp [BitVec.toNat_add]; omega
  simp only [queueContents, Queue.pushed, hcount, hq, List.range_succ, List.map_append, List.map_cons, List.map_nil]
  congr 1
  · apply List.map_congr_left
    intro i hi
    apply rdAt_wrAt_ne
    simp only [List.mem_range] at hi
    omega
  · rw [rdAt_wrAt_same]
    exact Nat.mod_lt _ (by decide)

/-- The occupied entries after a removal (R171): all but the oldest. -/
theorem queueContents_popped {cfg : Config} (hq : cfg.queueCap = 10) (q : Queue) (h0 : q.count ≠ 0)
    (hh : q.head.toNat < cfg.queueCap) :
    queueContents cfg q = rdAt q.entry q.head.toNat 0 :: queueContents cfg (q.popped cfg) := by
  rw [hq] at hh
  have hpos : 1 ≤ q.count.toNat := by
    rcases Nat.eq_zero_or_pos q.count.toNat with h | h
    · exact absurd (BitVec.eq_of_toNat_eq (by simpa using h)) h0
    · exact h
  have hlt := q.count.isLt
  have hcount : q.count.toNat = (q.count - 1).toNat + 1 := by simp [BitVec.toNat_sub]; omega
  have hhead : (BitVec.ofNat 4 ((q.head.toNat + 1) % 10)).toNat = (q.head.toNat + 1) % 10 := by
    simp only [BitVec.toNat_ofNat]; omega
  simp only [queueContents, Queue.popped, hq]
  rw [hcount, List.range_succ_eq_map, List.map_cons, List.map_map, hhead]
  congr 1
  · rw [Nat.add_zero, Nat.mod_eq_of_lt hh]
  · apply List.map_congr_left
    intro i _
    simp only [Function.comp]
    congr 1
    omega

/-- The ring is empty exactly when Q_COUNT is 0. -/
theorem queueContents_eq_nil (cfg : Config) (q : Queue) : queueContents cfg q = [] ↔ q.count = 0 := by
  rw [queueContents, List.map_eq_nil_iff, List.range_eq_nil, ← BitVec.toNat_inj]
  simp

/-! ## The reply frame -/

/-- A reply frame has n + 3 bytes (R97). -/
theorem replyFrame_length (cfg : Config) (payload : List Byte) : (replyFrame cfg payload).length = payload.length + 3 := by
  simp [replyFrame]

@[simp] theorem payloadLanes_length (lanes : List Byte) (n : Nat) : (payloadLanes lanes n).length = n := by
  simp [payloadLanes]

/-- Lanes that are driven are taken as they are (R102). -/
theorem payloadLanes_eq_take (lanes : List Byte) (n : Nat) (h : n ≤ lanes.length) : payloadLanes lanes n = lanes.take n := by
  apply List.ext_getElem
  · simp [h]
  · intro i h1 h2
    simp only [payloadLanes, List.length_map, List.length_range] at h1
    have : i < lanes.length := by omega
    simp [payloadLanes, this]

/-- TX_LEN is the length of every frame its 5 bits can hold (R41, R221). -/
theorem frameLen_toNat (draw : BitVec 5) {bytes : Nat} (h : bytes < 32) : (frameLen draw bytes).toNat = bytes := by
  rw [frameLen, if_pos h, BitVec.toNat_ofNat]
  exact Nat.mod_eq_of_lt h

/-- TX_LEN is at least 3 and at most the frame's length, whatever the draw (R41). -/
theorem frameLen_bounds (draw : BitVec 5) {bytes : Nat} (h : 3 ≤ bytes) :
    3 ≤ (frameLen draw bytes).toNat ∧ (frameLen draw bytes).toNat ≤ bytes := by
  by_cases hb : bytes < 32
  · rw [frameLen_toNat draw hb]; exact ⟨h, Nat.le_refl _⟩
  · have := draw.isLt
    rw [frameLen, if_neg hb, BitVec.toNat_ofNat, Nat.mod_eq_of_lt (by omega)]
    omega

/-- What a loaded frame leaves in TX_BUF and TX_LEN (R221). -/
theorem loadFrame_tx (payload : List Byte) (s : State) :
    (loadFrame payload s).tx = { s.tx with
      buf := replyFrame s.cfg payload ++ s.tx.buf.drop (payload.length + 3)
      len := frameLen s.inp.txLenDraw (payload.length + 3) } := rfl

/-- A frame that fits keeps TX_BUF at its length. -/
theorem loadFrame_buf_length (payload : List Byte) (s : State) (h : payload.length + 3 ≤ s.tx.buf.length) :
    (loadFrame payload s).tx.buf.length = s.tx.buf.length := by
  simp [loadFrame, replyFrame_length]; omega

end Sys2Proof.Machine
end

