-- ==== Sys2Proof/Laws/Step.lean ====
section
/-! SUPPORT. What a phase, a meaning and a step can do: one inversion lemma each. Invariants are derived from these, not from the
definitions. -/

namespace Sys2Proof.Machine

/-! ## Which instructions each port decodes -/

/-- The receiver decodes requests only (R93). -/
theorem decodeFrame_isRequest {cfg : Config} {bytes : List Byte} {i : Instr} (h : decodeFrame cfg bytes = .ok i) : i.isRequest = true := by
  have key : ∀ cmd args, decodeCommand cmd args = .ok i → i.isRequest = true := by
    intro cmd args h
    unfold decodeCommand at h
    iterate 7
      split at h
      · split at h
        · simp only [Except.ok.injEq] at h; subst h; rfl
        · simp at h
    simp at h
  unfold decodeFrame at h
  split at h
  · split at h; · simp at h
    split at h; · simp at h
    split at h; · simp at h
    split at h
    · exact key _ _ h
    · simp at h
  · simp at h

/-- The dispatch port decodes dispatch operations only (R100). -/
theorem decodeWord_isPort {w : Word} {i : Instr} (h : decodeWord w = .ok i) : i.isRequest = false := by
  unfold decodeWord at h
  simp only at h
  split at h; · simp at h
  iterate 7
    split at h
    · simp only [Except.ok.injEq] at h; subst h; rfl
  simp at h

/-! ## The receiver -/

/-- In IDLE nothing times out (R145). -/
theorem stallCheck_idle {s : State} (h : s.rx.state = .idle) : stallCheck s = s := by
  unfold stallCheck; rw [if_neg (by simp [h])]

/-- Up to the timeout nothing times out (R145). -/
theorem stallCheck_inTime {s : State} (h : elapsed s s.rx.start ≤ s.cfg.stallTimeoutMs) : stallCheck s = s := by
  unfold stallCheck; rw [if_neg (by omega)]

/-- Past the timeout a partial frame is dropped (R145). -/
theorem stallCheck_late {s : State} (hs : s.rx.state ≠ .idle) (h : s.cfg.stallTimeoutMs < elapsed s s.rx.start) :
    stallCheck s = toIdle (raise .frameTimeout s) := by
  unfold stallCheck; rw [if_pos ⟨hs, h⟩]

/-- Phase P3 where nothing times out (R140). -/
theorem receivePhase_noStall {s : State} (hr : s.rx.state ≠ .reserved) (h : stallCheck s = s) :
    receivePhase s = if s.inp.rxValid then rxByte s.inp.rxData s else .next (s, none) := by
  unfold receivePhase; rw [if_neg hr, h]

/-- A stored byte is the next of the frame (R143). -/
theorem receivedBytes_storeByte (b : Byte) (s : State) (h : s.rx.count.toNat < Extent.rxBuf) :
    receivedBytes (storeByte b s).rx = receivedBytes s.rx ++ [b] := by
  have hcount : (s.rx.count + 1).toNat = s.rx.count.toNat + 1 := by
    simp [Extent.rxBuf] at h
    simp [BitVec.toNat_add]; omega
  simp only [receivedBytes, storeByte, hcount, wrAt_of_lt _ h]
  apply List.ext_getElem
  · simp [Extent.rxBuf] at h ⊢; omega
  · intro i h1 h2
    simp only [List.length_append, List.length_cons, List.length_nil, List.length_take, Vector.length_toList] at h2
    have hi : i = s.rx.count.toNat ∨ i < s.rx.count.toNat := by omega
    obtain rfl | hi := hi
    · have : min s.rx.count.toNat Extent.rxBuf = s.rx.count.toNat := by omega
      simp [this]
    · have : i < min s.rx.count.toNat Extent.rxBuf := by omega
      have hne : s.rx.count.toNat ≠ i := by omega
      rw [List.getElem_append_left (by simpa using this)]
      simp [hne]

/-- The trailer check (R144, R146): the receiver goes to IDLE, and either one flag is raised or one instruction is decoded. -/
theorem rxTrailer_cases {s t : State} {i : Option Instr} (h : rxTrailer s = .next (t, i)) :
    (∃ j, decodeFrame s.cfg (receivedBytes s.rx) = .ok j ∧ t = toIdle s ∧ i = some j) ∨
    (i = none ∧ ∃ k, (k = .crcMismatch ∨ k = .unknownCommand ∨ k = .lengthMismatch) ∧ t = toIdle (raise k s)) := by
  unfold rxTrailer at h
  split at h
  · next j hj => simp at h; exact .inl ⟨j, hj, h.1.symm, h.2.symm⟩
  · simp at h; exact .inr ⟨h.2.symm, _, .inl rfl, h.1.symm⟩
  · simp at h; exact .inr ⟨h.2.symm, _, .inr (.inl rfl), h.1.symm⟩
  · simp at h; exact .inr ⟨h.2.symm, _, .inr (.inr rfl), h.1.symm⟩
  all_goals simp at h

/-- What phase P3 can do (R140): it writes the receiver and one flag at most, and a step that decodes an instruction raises none. -/
theorem receivePhase_cases {s t : State} {i : Option Instr} (h : receivePhase s = .next (t, i)) :
    ∃ (rx : Rx) (flag : BitVec 16), t = { s with rx := rx, out := { s.out with errFlags := s.out.errFlags ||| flag } } ∧
      flag ∈ [0x0000#16, 0x0001#16, 0x0002#16, 0x0004#16, 0x0008#16, 0x0010#16] ∧
      (i ≠ none → flag = 0 ∧ rx.state = .idle) ∧ (∀ j, i = some j → j.isRequest = true) := by
  unfold receivePhase at h
  split at h; · simp at h
  have stalled : ∀ u, u = stallCheck s →
      u = s ∨ u = { s with rx := { s.rx with state := .idle, count := 0, remaining := 0 }
                           out := { s.out with errFlags := s.out.errFlags ||| 0x0001#16 } } := by
    rintro u rfl
    unfold stallCheck
    split
    · right; rfl
    · left; rfl
  have hnop : ∀ o : Outputs, o = { o with errFlags := o.errFlags ||| 0x0000#16 } := by intro o; simp
  obtain hu | hu := stalled _ rfl
  · simp only [hu] at h
    split at h
    · unfold rxByte at h
      split at h
      · simp only [Host.Outcome.next.injEq, Prod.mk.injEq] at h
        obtain ⟨rfl, rfl⟩ := h
        refine ⟨(rxIdle s.inp.rxData s).rx, 0, ?_, by simp, by simp, by simp⟩
        unfold rxIdle; split
        · rw [show (0 : BitVec 16) = 0x0000#16 from rfl, ← hnop]
        · rw [show (0 : BitVec 16) = 0x0000#16 from rfl, ← hnop]
      · simp only [Host.Outcome.next.injEq, Prod.mk.injEq] at h
        obtain ⟨rfl, rfl⟩ := h
        unfold rxLen; split
        · exact ⟨_, 0x0000#16, by rw [← hnop], by simp, by simp, by simp⟩
        · exact ⟨_, 0x0004#16, rfl, by simp, by simp, by simp⟩
      · unfold rxPayload at h
        split at h
        · simp only at h
          split at h
          · obtain ⟨j, hj, rfl, rfl⟩ | ⟨rfl, k, hk, rfl⟩ := rxTrailer_cases h
            · refine ⟨_, 0x0000#16, by rw [← hnop]; rfl, by simp, fun _ => ⟨rfl, rfl⟩, ?_⟩
              rintro j' ⟨⟩; exact decodeFrame_isRequest hj
            · refine ⟨_, k.mask, rfl, ?_, by simp, by simp⟩
              rcases hk with rfl | rfl | rfl <;> decide
          · simp only [Host.Outcome.next.injEq, Prod.mk.injEq] at h
            obtain ⟨rfl, rfl⟩ := h
            exact ⟨_, 0x0000#16, by rw [← hnop]; rfl, by simp, by simp, by simp⟩
        · simp at h
      · simp at h
    · simp only [Host.Outcome.next.injEq, Prod.mk.injEq] at h
      obtain ⟨rfl, rfl⟩ := h
      exact ⟨s.rx, 0x0000#16, by rw [← hnop], by simp, by simp, by simp⟩
  · simp only [hu] at h
    split at h
    · unfold rxByte at h
      simp only [Host.Outcome.next.injEq, Prod.mk.injEq] at h
      obtain ⟨rfl, rfl⟩ := h
      unfold rxIdle
      split
      · exact ⟨_, 0x0001#16, rfl, by simp, by simp, by simp⟩
      · exact ⟨_, 0x0001#16, rfl, by simp, by simp, by simp⟩
    · simp only [Host.Outcome.next.injEq, Prod.mk.injEq] at h
      obtain ⟨rfl, rfl⟩ := h
      exact ⟨_, 0x0001#16, rfl, by simp, by simp, by simp⟩

/-! ## The meanings -/

/-- What a request frame's meaning can do (R146 to R150): show its record and hand it to the push, or, for ProbeDevice, count a
reply or raise PROBE_OVERFLOW. -/
theorem exec_request {i : Instr} {s t : State} (hi : i.isRequest = true) (h : exec i s = .next t) :
    ∃ rec : Word, decodeRecord rec = some i ∧
      ((Safety.PushedRecord rec ∧ t = enqueue rec s) ∨ (i = .probeDevice ∧ t = probeRequest (announce rec s))) := by
  cases i
  case probeDevice =>
    simp only [exec, execProbeDevice, Host.Outcome.next.injEq] at h
    exact ⟨_, rfl, .inr ⟨rfl, h.symm⟩⟩
  case getTemp =>
    simp only [exec, execGetTemp, Host.Outcome.next.injEq] at h
    exact ⟨_, rfl, .inl ⟨.inl rfl, h.symm⟩⟩
  case getFanRpm =>
    simp only [exec, execGetFanRpm, Host.Outcome.next.injEq] at h
    exact ⟨_, rfl, .inl ⟨.inr (.inl rfl), h.symm⟩⟩
  case getFanPwm channel =>
    simp only [exec, execGetFanPwm, Host.Outcome.next.injEq] at h
    refine ⟨_, ?_, .inl ⟨.inr (.inr (.inl ⟨channel, rfl⟩)), h.symm⟩⟩
    simp [decodeRecord, recordOf, byteOf_pack_0, byteOf_pack_1]
  case setFanPwm channel pwm =>
    simp only [exec, execSetFanPwm, Host.Outcome.next.injEq] at h
    refine ⟨_, ?_, .inl ⟨.inr (.inr (.inr (.inl ⟨channel, pwm, rfl⟩))), h.symm⟩⟩
    simp [decodeRecord, recordOf, byteOf_pack_0, byteOf_pack_1, byteOf_pack_2]
  case eeReadByte addrH addrL =>
    simp only [exec, execEeReadByte, Host.Outcome.next.injEq] at h
    refine ⟨_, ?_, .inl ⟨.inr (.inr (.inr (.inr (.inl ⟨addrH, addrL, rfl⟩)))), h.symm⟩⟩
    simp [decodeRecord, recordOf, byteOf_pack_0, byteOf_pack_1, byteOf_pack_2]
  case eeWriteByte addrH addrL value =>
    simp only [exec, execEeWriteByte, Host.Outcome.next.injEq] at h
    refine ⟨_, ?_, .inl ⟨.inr (.inr (.inr (.inr (.inr ⟨addrH, addrL, value, rfl⟩)))), h.symm⟩⟩
    simp [decodeRecord, recordOf, byteOf_pack_0, byteOf_pack_1, byteOf_pack_2, byteOf_pack_3]
  all_goals simp [Instr.isRequest] at hi

/-- A request frame's meaning never stops. -/
theorem exec_request_next {i : Instr} (hi : i.isRequest = true) (s : State) : ∃ t, exec i s = .next t := by
  cases i <;> first | exact ⟨_, rfl⟩ | simp [Instr.isRequest] at hi

/-- The forms a dispatch operation's effect can take (R106, R171, R182, R183, R202, R205, R220 to R223): what it writes, beside the
response. -/
inductive PortEffect (s : State) : Instr → State → Prop where
  /-- Nothing but the response. -/
  | answer {i : Instr} (status : DpStatus) (data : Word) (hs : i.isRequest = false)
      (hq : ∀ a b, i = .qpop a b → s.q.count = 0 ∧ status = .empty)
      (hu : ∀ a b, i = .update a b → elapsed s s.tach.windowStart < s.cfg.rpmWindowMs)
      (hd : status ≠ .ok → data = 0) :
      PortEffect s i (respond status data s)
  /-- A refused SEND: SEND_OVERFLOW or SEND_BUSY. -/
  | sendRefused (n b : Byte) (status : DpStatus) (k : ErrKind)
      (hk : k = .sendOverflow ∧ s.cfg.txPayloadMax < n.toNat ∨ k = .sendBusy ∧ n.toNat ≤ s.cfg.txPayloadMax) :
      PortEffect s (.send n b) (respond status 0 (raise k s))
  /-- A failed SETPWM. -/
  | setpwmFailed (c p : Byte) (bc bp : Bool) :
      PortEffect s (.setpwm c p) (respond .fail 0 (raiseIf bp .pwmOutOfRange (raiseIf bc .channelOutOfRange s)))
  /-- A pop of the oldest record. -/
  | popped (a b : Byte) (h0 : s.q.count ≠ 0) (hh : s.q.head.toNat < s.cfg.queueCap) :
      PortEffect s (.qpop a b) (respond .ok (rdAt s.q.entry s.q.head.toNat 0) { s with q := s.q.popped s.cfg })
  /-- A duty written. -/
  | dutySet (c p : Byte) (hc : c.toNat < s.cfg.fanCount) (hp : p.toNat ≤ 100) :
      PortEffect s (.setpwm c p) (respond .ok 0 (setDuty c.toNat (dutyOf s.cfg.timerTop p.toNat) s))
  /-- A window closed. -/
  | windowClosed (a b : Byte) (he : s.cfg.rpmWindowMs ≤ elapsed s s.tach.windowStart) :
      PortEffect s (.update a b) (respond .ok 1 (closeWindow (elapsed s s.tach.windowStart) s))
  /-- A frame loaded and its emission begun. -/
  | sent (n b : Byte) (hn : n.toNat ≤ s.cfg.txPayloadMax) (hidle : s.tx.state = .idle) (hp : s.tx.probePending = 0) :
      PortEffect s (.send n b) (respond .ok 0 (beginFrame (payloadLanes s.inp.dpPayload n.toNat) s))

/-- The sender is free exactly in IDLE with no reply owed (R223). -/
theorem senderBusy_eq_false {s : State} : senderBusy s = false ↔ s.tx.state = .idle ∧ s.tx.probePending = 0 := by
  simp [senderBusy]

/-- What a dispatch operation's meaning can do. -/
theorem exec_port {i : Instr} {s t : State} (hi : i.isRequest = false) (h : exec i s = .next t) : PortEffect s i t := by
  cases i
  case nop a b =>
    simp only [exec, execNop, Host.Outcome.next.injEq] at h
    subst h; exact .answer _ _ rfl (by simp) (by simp) (by simp)
  case qpop a b =>
    simp only [exec, execQpop] at h
    split at h
    · next h0 => simp only [Host.Outcome.next.injEq] at h; subst h; exact .answer _ _ rfl (by simp [h0]) (by simp) (by simp)
    · split at h
      · next h0 hh => simp only [Host.Outcome.next.injEq] at h; subst h; exact .popped a b h0 hh
      · simp at h
  case setpwm c p =>
    simp only [exec, execSetpwm] at h
    split at h
    · simp only [Host.Outcome.next.injEq] at h; subst h; exact .setpwmFailed c p _ _
    · next hb =>
      simp only [Host.Outcome.next.injEq] at h; subst h
      simp [channelActive] at hb
      exact .dutySet c p hb.1 hb.2
  case getpwm c b =>
    simp only [exec, execGetpwm] at h
    split at h
    · split at h
      · simp only [Host.Outcome.next.injEq] at h; subst h; exact .answer _ _ rfl (by simp) (by simp) (by simp)
      · simp at h
    · simp only [Host.Outcome.next.injEq] at h; subst h; exact .answer _ _ rfl (by simp) (by simp) (by simp)
  case getrpm c b =>
    simp only [exec, execGetrpm] at h
    split at h <;> (simp only [Host.Outcome.next.injEq] at h; subst h; exact .answer _ _ rfl (by simp) (by simp) (by simp))
  case update a b =>
    simp only [exec, execUpdate] at h
    split at h
    · next he => simp only [Host.Outcome.next.injEq] at h; subst h; exact .answer _ _ rfl (by simp) (by simp [he]) (by simp)
    · next he => simp only [Host.Outcome.next.injEq] at h; subst h; exact .windowClosed a b (by omega)
  case send n b =>
    simp only [exec, execSend] at h
    split at h
    · next hn => simp only [Host.Outcome.next.injEq] at h; subst h; exact .sendRefused n b _ _ (.inl ⟨rfl, hn⟩)
    · next hn =>
      split at h
      · simp only [Host.Outcome.next.injEq] at h; subst h; exact .sendRefused n b _ _ (.inr ⟨rfl, by omega⟩)
      · next hb =>
        simp only [Host.Outcome.next.injEq] at h; subst h
        obtain ⟨hidle, hp⟩ := senderBusy_eq_false.mp (by simpa using hb)
        exact .sent n b (by omega) hidle hp
  all_goals simp [Instr.isRequest] at hi

/-! ## The dispatch port -/

/-- What the front of phase P4 can do (R101, R106). -/
theorem dispatchFetch_cases (s : State) :
    (s.inp.dpValid = false ∧ dispatchFetch s = (s, none)) ∨
    (s.inp.dpValid = true ∧ ∃ i, decodeWord s.inp.dpWord = .ok i ∧ dispatchFetch s = (s, some i)) ∨
    (s.inp.dpValid = true ∧ (∃ e, decodeWord s.inp.dpWord = .error e) ∧
      dispatchFetch s = (respond .illegal 0 (raise .illegalOp s), none)) := by
  unfold dispatchFetch
  cases hv : s.inp.dpValid
  · exact .inl ⟨rfl, rfl⟩
  · cases hd : decodeWord s.inp.dpWord
    · exact .inr (.inr ⟨rfl, ⟨_, rfl⟩, rfl⟩)
    · exact .inr (.inl ⟨rfl, _, rfl, rfl⟩)

/-! ## The push -/

/-- What phase P5 can do (R170, R172). -/
theorem pushPhase_cases (s : State) :
    (s.wires.push = none ∧ pushPhase s = showCount s) ∨
    (∃ rec, s.wires.push = some rec ∧
      ((s.q.count.toNat < s.cfg.queueCap ∧
        pushPhase s = showCount { s with q := s.q.pushed s.cfg rec, wires := { s.wires with push := none } }) ∨
       (s.cfg.queueCap ≤ s.q.count.toNat ∧
        pushPhase s = showCount (raise .queueOverflow { s with wires := { s.wires with push := none } })))) := by
  unfold pushPhase
  split
  · next h => exact .inl ⟨h, rfl⟩
  · next rec h =>
    refine .inr ⟨rec, h, ?_⟩
    unfold pushRecord
    by_cases hc : s.q.count.toNat < s.cfg.queueCap
    · exact .inl ⟨hc, by rw [if_pos hc]⟩
    · exact .inr ⟨by omega, by rw [if_neg hc]⟩

/-! ## The sender -/

/-- What the sender part of phase P7 can do (R224 to R229). -/
theorem senderPhase_cases {s t : State} (h : senderPhase s = .next t) :
    ∃ u, u = endSpacing (startProbe s) ∧ s.tx.state ≠ .reserved ∧
      ((u.tx.state = .emit ∧ u.tx.idx.toNat < u.tx.len.toNat ∧ u.tx.idx.toNat < u.tx.buf.length ∧
        t = showBusy (emitByte u)) ∨
       (u.tx.state ≠ .emit ∧ t = showBusy u)) := by
  unfold senderPhase at h
  split at h; · simp at h
  next hr =>
  refine ⟨_, rfl, hr, ?_⟩
  simp only at h
  split at h
  · next he =>
    split at h
    · next hi => simp only [Host.Outcome.next.injEq] at h; exact .inl ⟨he, hi.1, hi.2, h.symm⟩
    · simp at h
  · next he => simp only [Host.Outcome.next.injEq] at h; exact .inr ⟨he, h.symm⟩

/-- How the sender begins phase P7 (R224): an owed probe reply begins, or a spacing ends, or nothing happens. -/
theorem endSpacing_startProbe_cases (s : State) :
    ((s.tx.state = .idle ∨ s.tx.state = .space) ∧ s.tx.probePending ≠ 0 ∧
      endSpacing (startProbe s) =
        { beginFrame (probePayload s.cfg) s with
          tx := { (beginFrame (probePayload s.cfg) s).tx with probePending := s.tx.probePending - 1 } }) ∨
    (s.tx.state = .space ∧ s.tx.probePending = 0 ∧ s.cfg.spacingMs ≤ elapsed s s.tx.spaceStart ∧
      endSpacing (startProbe s) = { s with tx := { s.tx with state := .idle } }) ∨
    (endSpacing (startProbe s) = s ∧
      ¬((s.tx.state = .idle ∨ s.tx.state = .space) ∧ s.tx.probePending ≠ 0) ∧
      ¬(s.tx.state = .space ∧ s.cfg.spacingMs ≤ elapsed s s.tx.spaceStart)) := by
  by_cases hp : (s.tx.state = .idle ∨ s.tx.state = .space) ∧ s.tx.probePending ≠ 0
  · refine .inl ⟨hp.1, hp.2, ?_⟩
    unfold startProbe
    rw [if_pos hp]
    rfl
  · have hs : startProbe s = s := by unfold startProbe; rw [if_neg hp]
    rw [hs]
    by_cases hd : s.tx.state = .space ∧ s.cfg.spacingMs ≤ elapsed s s.tx.spaceStart
    · refine .inr (.inl ⟨hd.1, ?_, hd.2, ?_⟩)
      · by_contra h0; exact hp ⟨.inr hd.1, h0⟩
      · unfold endSpacing; rw [if_pos hd]
    · exact .inr (.inr ⟨by unfold endSpacing; rw [if_neg hd], hp, hd⟩)

/-- An offered byte that the UART does not take stays on offer (R226). -/
theorem emitByte_wait {s : State} (h : s.inp.txReady = false) :
    emitByte s = { s with out := { s.out with txValid := true, txData := s.tx.buf.getD s.tx.idx.toNat 0 } } := by
  simp [emitByte, h]

/-- A byte taken before the last one (R226). -/
theorem emitByte_more {s : State} (h : s.inp.txReady = true) (hi : s.tx.idx + 1 ≠ s.tx.len) :
    emitByte s = { s with
      tx := { s.tx with idx := s.tx.idx + 1 }
      out := { s.out with txValid := true, txData := s.tx.buf.getD s.tx.idx.toNat 0 } } := by
  simp only [emitByte, h, if_true]
  rw [if_neg hi]

/-- The last byte taken (R226). -/
theorem emitByte_last {s : State} (h : s.inp.txReady = true) (hi : s.tx.idx + 1 = s.tx.len) :
    emitByte s = { s with
      tx := { s.tx with idx := s.tx.idx + 1, state := .space, spaceStart := s.msClock }
      out := { s.out with txValid := true, txData := s.tx.buf.getD s.tx.idx.toNat 0 } } := by
  simp only [emitByte, h, if_true]
  rw [if_pos hi]

/-- Below TX_LEN the index does not wrap. -/
theorem idx_succ_toNat {t : Tx} (h : t.idx.toNat < t.len.toNat) : (t.idx + 1).toNat = t.idx.toNat + 1 := by
  have := t.len.isLt
  simp [BitVec.toNat_add]; omega

/-- Outside an emission the sender phase only settles the state (R224, R227). -/
theorem senderPhase_quiet {s : State} (hr : s.tx.state ≠ .reserved) (h : (endSpacing (startProbe s)).tx.state ≠ .emit) :
    senderPhase s = .next (showBusy (endSpacing (startProbe s))) := by
  unfold senderPhase; rw [if_neg hr]; exact if_neg h

/-- In an emission the sender phase emits a byte (R226). -/
theorem senderPhase_emit {s : State} (hr : s.tx.state ≠ .reserved) (h : (endSpacing (startProbe s)).tx.state = .emit)
    (hi : (endSpacing (startProbe s)).tx.idx.toNat < (endSpacing (startProbe s)).tx.len.toNat)
    (hb : (endSpacing (startProbe s)).tx.idx.toNat < (endSpacing (startProbe s)).tx.buf.length) :
    senderPhase s = .next (showBusy (emitByte (endSpacing (startProbe s)))) := by
  unfold senderPhase; rw [if_neg hr]; exact (if_pos h).trans (if_pos ⟨hi, hb⟩)

/-- An emission under way is not touched by the start of the sender phase (R226). -/
theorem endSpacing_startProbe_emit {s : State} (h : s.tx.state = .emit) : endSpacing (startProbe s) = s := by
  rcases endSpacing_startProbe_cases s with ⟨h1, _⟩ | ⟨h1, _⟩ | ⟨he, _⟩
  · simp [h] at h1
  · simp [h] at h1
  · exact he

/-! ## What a phase leaves alone -/

/-- Equal but for the registers and outputs a meaning may write. -/
structure Untouched (s t : State) : Prop where
  cfg : t.cfg = s.cfg
  msClock : t.msClock = s.msClock
  rx : t.rx = s.rx
  inp : t.inp = s.inp
  script : t.script = s.script
  stepNo : t.stepNo = s.stepNo
  dutyActive : t.pwm.dutyActive = s.pwm.dutyActive
  cnt : t.pwm.cnt = s.pwm.cnt
  dir : t.pwm.dir = s.pwm.dir
  prev : t.tach.prev = s.tach.prev
  edge : t.wires.edge = s.wires.edge

/-- No meaning writes the configuration, the clock, the receiver, the inputs, the counter, or the edges. -/
theorem exec_untouched {i : Instr} {s t : State} (h : exec i s = .next t) : Untouched s t := by
  cases hi : i.isRequest
  · cases exec_port hi h
    case setpwmFailed => constructor <;> simp
    all_goals (constructor <;> rfl)
  · obtain ⟨rec, -, ⟨-, rfl⟩ | ⟨-, rfl⟩⟩ := exec_request hi h
    · constructor <;> rfl
    · constructor <;> simp

theorem Untouched.refl (s : State) : Untouched s s := by constructor <;> rfl

theorem Untouched.trans {s t u : State} (h : Untouched s t) (g : Untouched t u) : Untouched s u where
  cfg := g.cfg.trans h.cfg
  msClock := g.msClock.trans h.msClock
  rx := g.rx.trans h.rx
  inp := g.inp.trans h.inp
  script := g.script.trans h.script
  stepNo := g.stepNo.trans h.stepNo
  dutyActive := g.dutyActive.trans h.dutyActive
  cnt := g.cnt.trans h.cnt
  dir := g.dir.trans h.dir
  prev := g.prev.trans h.prev
  edge := g.edge.trans h.edge

theorem runDecoded_untouched {i : Option Instr} {s t : State} (h : runDecoded i s = .next t) : Untouched s t := by
  cases i with
  | none => simp only [runDecoded, Host.Outcome.next.injEq] at h; subst h; exact .refl s
  | some i => exact exec_untouched h

theorem dispatchFetch_untouched (s : State) : Untouched s (dispatchFetch s).1 := by
  constructor <;> simp

/-- The sender phase writes the sender and its outputs only. -/
theorem senderPhase_keeps {s t : State} (h : senderPhase s = .next t) :
    t.cfg = s.cfg ∧ t.msClock = s.msClock ∧ t.rx = s.rx ∧ t.q = s.q ∧ t.pwm = s.pwm ∧ t.tach = s.tach ∧ t.inp = s.inp ∧
      t.wires = s.wires ∧ t.script = s.script ∧ t.stepNo = s.stepNo ∧
      t.out = { s.out with txValid := t.out.txValid, txData := t.out.txData, txBusy := t.out.txBusy } := by
  obtain ⟨u, rfl, -, ⟨-, -, -, rfl⟩ | ⟨-, rfl⟩⟩ := senderPhase_cases h
  · refine ⟨by simp, by simp, by simp, by simp, by simp, by simp, by simp, by simp, by simp, by simp, ?_⟩
    have : ∀ u : State, (emitByte u).out = { u.out with txValid := true, txData := u.tx.buf.getD u.tx.idx.toNat 0 } := by
      intro u; simp only [emitByte]; split <;> (try split) <;> rfl
    simp [showBusy, this]
  · refine ⟨by simp, by simp, by simp, by simp, by simp, by simp, by simp, by simp, by simp, by simp, ?_⟩
    simp [showBusy]

/-! ## A step -/

/-- What a step can do (R10, R11): a reset step, or the phases in their order. -/
theorem step_cases {s t : State} (h : step s = .next t) :
    s.cfg.valid = true ∧
      (((nextInputs s).rst = true ∧ t = resetPhase (beginStep s)) ∨
       ((nextInputs s).rst = false ∧ ∃ (u : State) (i : Option Instr) (a b c : State),
          receivePhase (frontPhases s) = .next (u, i) ∧ runDecoded i u = .next a ∧
          runDecoded (dispatchFetch a).2 (dispatchFetch a).1 = .next b ∧
          senderPhase (countPhase (pushPhase b)) = .next c ∧ t = pwmPhase c)) := by
  unfold step at h
  split at h
  · next hv =>
    refine ⟨hv, ?_⟩
    split at h
    · next hr => simp only [Host.Outcome.next.injEq] at h; exact .inl ⟨hr, h.symm⟩
    · next hr =>
      refine .inr ⟨by simpa using hr, ?_⟩
      obtain ⟨⟨u, i⟩, hu, h⟩ := andThen_eq_next.mp h
      obtain ⟨a, ha, h⟩ := andThen_eq_next.mp h
      unfold dispatchOnward at h
      obtain ⟨b, hb, h⟩ := andThen_eq_next.mp h
      unfold backPhases at h
      obtain ⟨c, hc, h⟩ := andThen_eq_next.mp h
      simp only [Host.Outcome.next.injEq] at h
      exact ⟨u, i, a, b, c, hu, ha, hb, hc, h.symm⟩
  · simp at h

end Sys2Proof.Machine
end

