-- ==== Sys2Proof/Laws/Trace.lean ====
section
/-! SUPPORT. A step outside reset as a chain of named states, one per phase, and what each of them has of the state the step began
in. A claim about a whole step starts from `trace_of_step`. -/

namespace Sys2Proof.Machine

/-- The states a step passes through (R10): `u` after the receiver, `a` after its instruction, `b` after the dispatch operation,
`c` after the sender. -/
structure Trace (s u : State) (i : Option Instr) (a b c t : State) : Prop where
  valid : s.cfg.valid = true
  receive : receivePhase (frontPhases s) = .next (u, i)
  request : runDecoded i u = .next a
  dispatch : runDecoded (dispatchFetch a).2 (dispatchFetch a).1 = .next b
  send : senderPhase (countPhase (pushPhase b)) = .next c
  last : t = pwmPhase c

/-- Every step outside reset that goes on has its trace. -/
theorem trace_of_step {s t : State} (hr : (nextInputs s).rst = false) (h : step s = .next t) :
    ∃ u i a b c, Trace s u i a b c t := by
  obtain ⟨hv, ⟨h1, -⟩ | ⟨-, u, i, a, b, c, h1, h2, h3, h4, h5⟩⟩ := step_cases h
  · rw [hr] at h1; cases h1
  · exact ⟨u, i, a, b, c, hv, h1, h2, h3, h4, h5⟩

/-! ## Before the receiver -/

@[simp] theorem frontPhases_cfg (s : State) : (frontPhases s).cfg = s.cfg := by simp [frontPhases]
@[simp] theorem frontPhases_q (s : State) : (frontPhases s).q = s.q := by simp [frontPhases]
@[simp] theorem frontPhases_rx (s : State) : (frontPhases s).rx = s.rx := by simp [frontPhases]
@[simp] theorem frontPhases_pwm (s : State) : (frontPhases s).pwm = s.pwm := by simp [frontPhases]
@[simp] theorem frontPhases_tx (s : State) : (frontPhases s).tx = s.tx := by simp [frontPhases]
@[simp] theorem frontPhases_inp (s : State) : (frontPhases s).inp = nextInputs s := by simp [frontPhases, beginStep]
@[simp] theorem frontPhases_out (s : State) : (frontPhases s).out = { Outputs.idle with txData := (nextInputs s).txDataDraw } := by
  simp [frontPhases, beginStep]
@[simp] theorem frontPhases_push (s : State) : (frontPhases s).wires.push = none := by
  simp [frontPhases, edgePhase, beginStep, Wires.idle]
@[simp] theorem frontPhases_consumed (s : State) : (frontPhases s).wires.consumed = #v[false, false] := by
  simp [frontPhases, edgePhase, beginStep, Wires.idle]
@[simp] theorem frontPhases_tach (s : State) :
    (frontPhases s).tach = { s.tach with prev := (nextInputs s).tach } := by
  simp [frontPhases, edgePhase, beginStep]

/-- MS_CLOCK after phase P1 (R22). -/
theorem frontPhases_msClock (s : State) :
    (frontPhases s).msClock = if (nextInputs s).tick1ms then s.msClock + 1 else s.msClock := by
  simp only [frontPhases, edgePhase_msClock, clockPhase]
  by_cases h : (nextInputs s).tick1ms <;> simp [beginStep, h]

/-- The edges of phase P2 (R200). -/
theorem frontPhases_edge (s : State) (c : Fin Extent.fans) :
    (frontPhases s).wires.edge[c] = true ↔
      c.val < s.cfg.fanCount ∧ s.tach.prev[c] = true ∧ (nextInputs s).tach[c] = false := by
  simp only [frontPhases, edgePhase, perFan_get]
  simp [beginStep, channelActive]
  tauto

/-! ## After the receiver's instruction -/

/-- What the step has of its beginning once the receiver's instruction has run: only the receiver, the owed replies, the flags,
`rx_cmd` and the record to push are new. -/
structure AfterRequest (s a : State) : Prop where
  cfg : a.cfg = s.cfg
  msClock : a.msClock = (frontPhases s).msClock
  q : a.q = s.q
  pwm : a.pwm = s.pwm
  tach : a.tach = { s.tach with prev := (nextInputs s).tach }
  tx : a.tx = { s.tx with probePending := a.tx.probePending }
  inp : a.inp = nextInputs s
  edge : a.wires.edge = (frontPhases s).wires.edge
  consumed : a.wires.consumed = #v[false, false]
  out : a.out = { Outputs.idle with
    txData := (nextInputs s).txDataDraw, errFlags := a.out.errFlags, rxCmdValid := a.out.rxCmdValid, rxCmd := a.out.rxCmd }
  push : a.wires.push = none ∨
    ∃ rec, a.wires.push = some rec ∧ a.out.rxCmdValid = true ∧ a.out.rxCmd = rec ∧ Safety.PushedRecord rec

theorem Trace.afterRequest {s u a b c t : State} {i : Option Instr} (T : Trace s u i a b c t) : AfterRequest s a := by
  obtain ⟨rx, flag, hu, -, -, hreq⟩ := receivePhase_cases T.receive
  have ha := T.request
  cases i with
  | none =>
    simp only [runDecoded, Host.Outcome.next.injEq] at ha
    subst ha hu
    exact ⟨by simp, rfl, by simp, by simp, by simp, by simp, by simp, rfl, by simp, by simp, .inl (by simp)⟩
  | some j =>
    simp only [runDecoded] at ha
    obtain ⟨rec, -, ⟨hp, rfl⟩ | ⟨-, rfl⟩⟩ := exec_request (hreq j rfl) ha
    · subst hu
      refine ⟨by simp, by simp, by simp, by simp, by simp, by simp, by simp, rfl, ?_, ?_, .inr ⟨rec, rfl, rfl, rfl, hp⟩⟩
      · simp [enqueue, requestPush]
      · simp [enqueue, announce_out]
    · have hout : ∀ s, (probeRequest s).out = { s.out with errFlags := (probeRequest s).out.errFlags } := by
        intro s; unfold probeRequest; split <;> rfl
      have htx : ∀ s, (probeRequest s).tx = { s.tx with probePending := (probeRequest s).tx.probePending } := by
        intro s; unfold probeRequest; split <;> rfl
      refine ⟨by simp [hu], by simp [hu], by simp [hu], by simp [hu], by simp [hu], ?_, by simp [hu], by simp [hu],
        by simp [hu], ?_, .inl (by simp [hu])⟩
      · rw [htx]; simp [hu]
      · rw [hout]; simp [hu, announce_out]

/-! ## After the dispatch operation -/

/-- The dispatch port in a step: no word, a word that decodes and whose meaning runs, or an illegal word (R101, R106). -/
theorem Trace.dispatched {s u a b c t : State} {i : Option Instr} (T : Trace s u i a b c t) :
    ((nextInputs s).dpValid = false ∧ b = a) ∨
    ((nextInputs s).dpValid = true ∧ ∃ j, decodeWord (nextInputs s).dpWord = .ok j ∧ exec j a = .next b ∧ PortEffect a j b) ∨
    ((nextInputs s).dpValid = true ∧ (∃ e, decodeWord (nextInputs s).dpWord = .error e) ∧
      b = respond .illegal 0 (raise .illegalOp a)) := by
  have hb := T.dispatch
  rw [← T.afterRequest.inp]
  rcases dispatchFetch_cases a with ⟨h1, hd⟩ | ⟨h1, j, h2, hd⟩ | ⟨h1, h2, hd⟩
  · rw [hd] at hb; simp only [runDecoded, Host.Outcome.next.injEq] at hb
    exact .inl ⟨h1, hb.symm⟩
  · rw [hd] at hb; simp only [runDecoded] at hb
    exact .inr (.inl ⟨h1, j, h2, hb, exec_port (decodeWord_isPort h2) hb⟩)
  · rw [hd] at hb; simp only [runDecoded, Host.Outcome.next.injEq] at hb
    exact .inr (.inr ⟨h1, h2, hb.symm⟩)

/-- The dispatch operation leaves the configuration, the clock, the receiver, the inputs, the counter and the edges alone. -/
theorem Trace.untouched {s u a b c t : State} {i : Option Instr} (T : Trace s u i a b c t) : Untouched a b :=
  (dispatchFetch_untouched a).trans (runDecoded_untouched T.dispatch)

/-! ## The end of the step -/

@[simp] theorem pushPhase_edge (s : State) : (pushPhase s).wires.edge = s.wires.edge := by
  rcases pushPhase_cases s with ⟨-, h⟩ | ⟨_, -, ⟨-, h⟩ | ⟨-, h⟩⟩ <;> rw [h] <;> rfl

@[simp] theorem pushPhase_consumed (s : State) : (pushPhase s).wires.consumed = s.wires.consumed := by
  rcases pushPhase_cases s with ⟨-, h⟩ | ⟨_, -, ⟨-, h⟩ | ⟨-, h⟩⟩ <;> rw [h] <;> rfl

/-- What the whole step's state takes from the state after the dispatch operation, beside the sender and the outputs. -/
structure AfterStep (b c t : State) : Prop where
  cfg : t.cfg = b.cfg
  msClock : t.msClock = b.msClock
  rx : t.rx = b.rx
  q : t.q = (pushPhase b).q
  pwm : t.pwm = pwmCount b.cfg b.pwm
  tach : t.tach = { b.tach with pulse := perFan fun k =>
    if b.wires.edge[k] && !b.wires.consumed[k] then b.tach.pulse[k] + 1 else b.tach.pulse[k] }
  tx : t.tx = c.tx
  inp : t.inp = b.inp
  wires : t.wires = Wires.idle
  out : t.out = { (pushPhase b).out with
    txValid := c.out.txValid, txData := c.out.txData, txBusy := c.out.txBusy
    pwmPin := pinLevels b.cfg b.pwm b.inp.pinDraw }

theorem Trace.afterStep {s u a b c t : State} {i : Option Instr} (T : Trace s u i a b c t) : AfterStep b c t := by
  obtain ⟨k1, k2, k3, k4, k5, k6, k7, k8, -, -, k11⟩ := senderPhase_keeps T.send
  have hout : (countPhase (pushPhase b)).out = (pushPhase b).out := by simp
  rw [T.last]
  refine ⟨by simp [k1], by simp [k2], by simp [k3], by simp [k4], ?_, ?_, by simp, by simp [k7], by simp [k8, countPhase], ?_⟩
  · simp [pwmPhase, k1, k5]
  · rw [pwmPhase_tach, k6]; simp [countPhase]
  · simp only [pwmPhase, k1, k5, k7]
    rw [k11, hout]
    simp

end Sys2Proof.Machine
end

