-- ==== Sys2Proof/Laws/Environment.lean ====
section
/-! SUPPORT. A run in which nothing arrives and nothing is sent: it goes on for ever, whatever the clock does. -/

namespace Sys2Proof.Machine

/-- No frame begun, none being sent, no reply owed, nothing to push. -/
structure Quiet (s : State) : Prop where
  valid : s.cfg.valid = true
  rx : s.rx.state = .idle
  tx : s.tx.state = .idle ∨ s.tx.state = .space
  owed : s.tx.probePending = 0

/-- Inputs that neither reset nor ask for anything. -/
structure QuietInputs (i : Inputs) : Prop where
  rst : i.rst = false
  rx : i.rxValid = false
  dp : i.dpValid = false

/-- A quiet block with quiet inputs goes on and stays quiet. -/
theorem quiet_step {s : State} (h : Quiet s) (hi : QuietInputs (nextInputs s)) : ∃ t, step s = .next t ∧ Quiet t := by
  obtain ⟨hv, hrx, htx, hp⟩ := h
  have hreceive : receivePhase (frontPhases s) = .next (frontPhases s, none) := by
    rw [receivePhase_noStall (by simp [hrx]) (stallCheck_idle (by simpa using hrx)), if_neg (by simp [hi.rx])]
  have hdispatch : dispatchFetch (frontPhases s) = (frontPhases s, none) := by
    rcases dispatchFetch_cases (frontPhases s) with ⟨-, h⟩ | ⟨h, -⟩ | ⟨h, -⟩
    · exact h
    · simp [hi.dp] at h
    · simp [hi.dp] at h
  obtain ⟨b, hb⟩ : ∃ b, b = countPhase (pushPhase (frontPhases s)) := ⟨_, rfl⟩
  have hbtx : b.tx = s.tx := by simp [hb]
  have hbrx : b.rx = s.rx := by simp [hb]
  have hbcfg : b.cfg = s.cfg := by simp [hb]
  have hsettle : (endSpacing (startProbe b)).cfg = s.cfg ∧ (endSpacing (startProbe b)).rx = s.rx ∧
      ((endSpacing (startProbe b)).tx.state = .idle ∨ (endSpacing (startProbe b)).tx.state = .space) ∧
      (endSpacing (startProbe b)).tx.probePending = 0 := by
    rcases endSpacing_startProbe_cases b with ⟨-, h, -⟩ | ⟨-, -, -, he⟩ | ⟨he, -, -⟩
    · exact absurd (by rw [hbtx, hp]) h
    · rw [he]; exact ⟨hbcfg, hbrx, .inl rfl, by rw [hbtx]; exact hp⟩
    · rw [he, hbtx, hbcfg, hbrx]; exact ⟨rfl, rfl, htx, hp⟩
  obtain ⟨h1, h2, h3, h4⟩ := hsettle
  have hsend : senderPhase b = .next (showBusy (endSpacing (startProbe b))) := by
    apply senderPhase_quiet
    · rw [hbtx]; rcases htx with h | h <;> simp [h]
    · rcases h3 with h | h <;> simp [h]
  refine ⟨pwmPhase (showBusy (endSpacing (startProbe b))), ?_, ⟨?_, ?_, ?_, ?_⟩⟩
  · unfold step
    rw [if_pos hv, if_neg (by simp [hi.rst]), hreceive, andThen_next]
    simp only [runDecoded, andThen_next, dispatchOnward, hdispatch, backPhases, ← hb, hsend]
  · rw [pwmPhase_cfg, showBusy_cfg, h1]; exact hv
  · rw [pwmPhase_rx, showBusy_rx, h2]; exact hrx
  · simpa using h3
  · simpa using h4

/-- The run that an environment drives from a state, for as long as the steps go on. -/
def runFrom (env : Nat → Inputs) (s : State) : Nat → State
  | 0 => s
  | n + 1 => match step { runFrom env s n with script := [env n] } with
    | .next t => t
    | _ => runFrom env s n

/-- A step of `runFrom` that goes on is a step of the run. -/
theorem runFrom_succ {env : Nat → Inputs} {s t : State} {n : Nat}
    (h : step { runFrom env s n with script := [env n] } = .next t) : runFrom env s (n + 1) = t := by
  simp only [runFrom, h]

/-- From a step on, quiet inputs make `runFrom` a run. -/
theorem runFrom_quiet {env : Nat → Inputs} {s : State} {first : Nat} (hq : Quiet (runFrom env s first))
    (hi : ∀ n, first ≤ n → QuietInputs (env n)) (n : Nat) (hn : first ≤ n) :
    step { runFrom env s n with script := [env n] } = .next (runFrom env s (n + 1)) ∧ Quiet (runFrom env s n) := by
  have key : ∀ n, first ≤ n → Quiet (runFrom env s n) := by
    intro n hn
    induction n, hn using Nat.le_induction with
    | base => exact hq
    | succ n hn ih =>
      obtain ⟨t, ht, htq⟩ := quiet_step (s := { runFrom env s n with script := [env n] }) ⟨ih.valid, ih.rx, ih.tx, ih.owed⟩ (hi n hn)
      rw [runFrom_succ ht]; exact htq
  have ih := key n hn
  obtain ⟨t, ht, -⟩ := quiet_step (s := { runFrom env s n with script := [env n] }) ⟨ih.valid, ih.rx, ih.tx, ih.owed⟩ (hi n hn)
  exact ⟨by rw [runFrom_succ ht]; exact ht, ih⟩

end Sys2Proof.Machine
end

