-- ==== Sys2Proof/Laws/PerInstr.lean ====
section
/-! SUPPORT. Statements about every instruction as syntax, one lemma per constructor. PacketShape: a request is encoded as a frame of
its command's required length from the start byte, with its CRC last (30_encoding.md R90 to R93); a dispatch operation as a word
with its reserved bits 0 and its operation code below 7 (R100, R106). -/

namespace Sys2Proof.Laws.PacketShape

/-- The shape of an instruction's packet, under every legal configuration. -/
def Statement (i : Instr) : Prop :=
  ∀ cfg : Config, cfg.valid = true → i.wellFormed = true ∧
  match encode cfg i with
  | .frame bytes => i.isRequest = true ∧ ∃ (cmd len : Byte) (args : List Byte),
      requiredLen cmd = some len.toNat ∧ bytes.length = len.toNat + 2 ∧
      bytes = [0xAA, len, cmd] ++ args ++ [Machine.crc8 cfg ([0xAA, len, cmd] ++ args)]
  | .word w => i.isRequest = false ∧ w.extractLsb' 3 5 = 0 ∧ byteOf w 3 = 0 ∧ (w.extractLsb' 0 3).toNat < 7

/-- The frame of a known command and its arguments has the shape. -/
theorem frame_shape {cfg : Config} (hv : cfg.valid = true) {cmd : Byte} {args : List Byte}
    (h : requiredLen cmd = some (args.length + 2)) (hl : args.length ≤ 3) :
    ∃ (cmd' len : Byte) (args' : List Byte), requiredLen cmd' = some len.toNat ∧
      (frameOf cfg cmd args).length = len.toNat + 2 ∧
      frameOf cfg cmd args = [0xAA, len, cmd'] ++ args' ++ [Machine.crc8 cfg ([0xAA, len, cmd'] ++ args')] := by
  have hlen : (BitVec.ofNat 8 (args.length + 2)).toNat = args.length + 2 := by simp; omega
  exact ⟨cmd, BitVec.ofNat 8 (args.length + 2), args, by rw [hlen, h], by rw [frameOf_length, hlen], frameOf_eq hv cmd args⟩

/-- The dispatch word of an operation code below 7 has the shape. -/
theorem word_shape (op a b : Byte) (h : op.toNat < 7) :
    (dpWordOf op a b).extractLsb' 3 5 = 0 ∧ byteOf (dpWordOf op a b) 3 = 0 ∧
      ((dpWordOf op a b).extractLsb' 0 3).toNat < 7 := by
  refine ⟨?_, byteOf_pack_3 _ _ _ _, ?_⟩
  · apply BitVec.eq_of_toNat_eq; rw [extract_toNat, dpWordOf, packBytes_toNat]; simp; omega
  · rw [extract_toNat, dpWordOf, packBytes_toNat]; simp; omega

theorem probeDevice : Statement .probeDevice := fun _ hv => ⟨rfl, rfl, frame_shape hv rfl (by simp)⟩

theorem getTemp : Statement .getTemp := fun _ hv => ⟨rfl, rfl, frame_shape hv rfl (by simp)⟩

theorem getFanRpm : Statement .getFanRpm := fun _ hv => ⟨rfl, rfl, frame_shape hv rfl (by simp)⟩

theorem getFanPwm (channel : Byte) : Statement (.getFanPwm channel) := fun _ hv => ⟨rfl, rfl, frame_shape hv rfl (by simp)⟩

theorem setFanPwm (channel pwm : Byte) : Statement (.setFanPwm channel pwm) := fun _ hv => ⟨rfl, rfl, frame_shape hv rfl (by simp)⟩

theorem eeReadByte (addrH addrL : Byte) : Statement (.eeReadByte addrH addrL) := fun _ hv => ⟨rfl, rfl, frame_shape hv rfl (by simp)⟩

theorem eeWriteByte (addrH addrL value : Byte) : Statement (.eeWriteByte addrH addrL value) :=
  fun _ hv => ⟨rfl, rfl, frame_shape hv rfl (by simp)⟩

theorem nop (a b : Byte) : Statement (.nop a b) := fun _ _ => ⟨rfl, rfl, word_shape 0 a b (by decide)⟩

theorem qpop (a b : Byte) : Statement (.qpop a b) := fun _ _ => ⟨rfl, rfl, word_shape 1 a b (by decide)⟩

theorem setpwm (channel percent : Byte) : Statement (.setpwm channel percent) :=
  fun _ _ => ⟨rfl, rfl, word_shape 2 channel percent (by decide)⟩

theorem getpwm (channel b : Byte) : Statement (.getpwm channel b) := fun _ _ => ⟨rfl, rfl, word_shape 3 channel b (by decide)⟩

theorem getrpm (channel b : Byte) : Statement (.getrpm channel b) := fun _ _ => ⟨rfl, rfl, word_shape 4 channel b (by decide)⟩

theorem update (a b : Byte) : Statement (.update a b) := fun _ _ => ⟨rfl, rfl, word_shape 5 a b (by decide)⟩

theorem send (n b : Byte) : Statement (.send n b) := fun _ _ => ⟨rfl, rfl, word_shape 6 n b (by decide)⟩

end Sys2Proof.Laws.PacketShape
end

