-- ==== Sys2Proof/Machine/Script.lean ====
section
/-! DEFINITION. The stimulus-script notation of 30_encoding.md R111 and R112: a script is a list of step inputs. It is the spec's
own test notation (D33) and no part of the block. The draws, which R111 does not name, are arguments. -/

namespace Sys2Proof.Machine

/-- The draws of a step: R203's per channel, R188's per channel, and those of log 21 and log 10. -/
structure Draws where
  capture : PerFan CaptureDraw
  pin : PerFan Bool
  txData : Byte
  txLen : BitVec 5
  probePending : BitVec 8
deriving DecidableEq, Repr

/-- `STEP` with every input at its default (R111). -/
def stepLine (d : Draws) : Inputs :=
  { Inputs.quiet with
    captureDraw := d.capture, pinDraw := d.pin, txDataDraw := d.txData, txLenDraw := d.txLen, probePendingDraw := d.probePending }

/-- `STEP rst=1`. -/
def resetLine (d : Draws) : Inputs := { stepLine d with rst := true }

/-- `STEP rx=HH`. -/
def rxLine (d : Draws) (b : Byte) : Inputs := { stepLine d with rxValid := true, rxData := b }

/-- `STEP tick=1`. -/
def tickLine (d : Draws) : Inputs := { stepLine d with tick1ms := true }

/-- `STEP ready=0|1`. -/
def readyLine (d : Draws) (ready : Bool) : Inputs := { stepLine d with txReady := ready }

/-- `STEP tachC=0|1`. -/
def tachLine (d : Draws) (c : Nat) (level : Bool) : Inputs := { stepLine d with tach := wrAt #v[true, true] c level }

/-- `STEP dp=#XXXXXXXX`, or `STEP dp=SEND n: b0 b1 ...` with its lanes. -/
def dpLine (d : Draws) (w : Word) (lanes : List Byte) : Inputs := { stepLine d with dpValid := true, dpWord := w, dpPayload := lanes }

/-- `RX b0 b1 ... bk` (R112). -/
def rxScript (d : Draws) (bytes : List Byte) : List Inputs := bytes.map (rxLine d)

/-- `RXF cmd a1 ... am` (R112). -/
def rxfScript (cfg : Config) (d : Draws) (cmd : Byte) (args : List Byte) : List Inputs := rxScript d (frameOf cfg cmd args)

/-- `IDLE n` (R112). -/
def idleScript (d : Draws) (n : Nat) : List Inputs := List.replicate n (stepLine d)

/-- `MS n` (R112). -/
def msScript (d : Draws) (n : Nat) : List Inputs := List.replicate n (tickLine d)

/-- `PULSE c` (R112): the line at 0, then at 1. -/
def pulseScript (d : Draws) (c : Nat) : List Inputs := [tachLine d c false, tachLine d c true]

/-- `DRAIN` (R112): `STEP tick=1` until `tx_busy` = 0, at most `fuel` steps. -/
def drain (d : Draws) : Nat → State → Result State
  | 0, s => .next s
  | fuel + 1, s =>
    if s.out.txBusy then andThen (step { s with script := [tickLine d] }) fun s => drain d fuel s
    else .next s

end Sys2Proof.Machine
end

