-- ==== Sys2Proof/Tests/Slice0.lean ====
section
/-! SUPPORT. Tests from spec/95_test_vectors.md, the well-formedness smoke test, and a witness for every obligation with hypotheses.
Expected values are the spec's own; section numbers are 95_test_vectors.md's. -/

namespace Sys2Proof.Tests

open Sys2Proof Sys2Proof.Machine Sys2Proof.Safety Sys2Proof.Claims

/-! ## Helpers -/

/-- The outcome is a next state with a property. -/
def ran {α : Type} (o : Result α) (p : α → Bool) : Bool :=
  match o with
  | .next t => p t
  | _ => false

theorem ran_next {α : Type} {o : Result α} {p : α → Bool} (h : ran o p = true) : ∃ t, o = .next t ∧ p t = true := by
  cases o with
  | next t => exact ⟨t, rfl, h⟩
  | fault r => exact absurd h (by simp [ran])
  | refused r => exact absurd h (by simp [ran])

/-- The hardware's own literals. -/
abbrev ref : Config := Config.reference

/-- The draws of the tests: LOST, pins low, an idle `tx_data` of EE, and 9 and 200 for what TX_LEN and PROBE_PENDING cannot hold. -/
def draws : Draws := { capture := #v[.lost, .lost], pin := #v[false, false], txData := 0xEE, txLen := 9, probePending := 200 }

/-- A state whose next step gets these inputs. -/
def given (s : State) (i : Inputs) : State := { s with script := [i] }

/-- The state in a step that samples these inputs. -/
def during (s : State) (i : Inputs) : State := { s with inp := i }

/-- The SEND lanes with these bytes in front, TX_PAYLOAD_MAX of them. -/
def lanes (bytes : List Byte) : List Byte := bytes ++ List.replicate (13 - bytes.length) 0

/-- A dispatch word in a step, with its lanes. -/
def word (w : Word) (bytes : List Byte) : Inputs := dpLine draws w (lanes bytes)

/-- A byte in a step. -/
def byte (b : Byte) : Inputs := { rxLine draws b with dpPayload := lanes [] }

/-- A step with defaults. -/
def quiet : Inputs := { stepLine draws with dpPayload := lanes [] }

/-- Reset, with the receiver holding the first bytes of a frame since MS 0. -/
def receiving (bytes : List Byte) (remaining : BitVec 3) : State :=
  { State.reset with rx :=
    { state := .awaitPayload, remaining := remaining, count := BitVec.ofNat 3 bytes.length, buf := bufferWith bytes, start := 0 } }

/-- Reset, with the receiver waiting for a length byte since MS 0. -/
def awaitingLen : State :=
  { State.reset with rx := { state := .awaitLen, remaining := 0, count := 1, buf := bufferWith [0xAA], start := 0 } }

/-- Reset, at another time. -/
def atMs (now : Word) (s : State) : State := { s with msClock := now }

/-- Reset, with this much of the ring occupied, entry i holding the GetFanPwm record of channel i. -/
def queued (head count : BitVec 4) : State :=
  { State.reset with q :=
    { entry := Vector.ofFn fun i => recordOf 0x31 (BitVec.ofNat 8 i.val) 0 0, head := head, count := count } }

/-- Reset, with `C5 02 32 F5` being emitted. -/
def emitting (idx : BitVec 5) : State :=
  { State.reset with tx :=
    { state := .emit, buf := [0xC5, 0x02, 0x32, 0xF5] ++ List.replicate 12 0, len := 4, idx := idx, spaceStart := 0, probePending := 0 } }

/-- Reset, in the spacing of a frame whose last byte was taken at MS 0. -/
def spacing (pending : BitVec 8) : State :=
  { State.reset with tx :=
    { state := .space, buf := List.replicate 16 0, len := 4, idx := 4, spaceStart := 0, probePending := pending } }

/-- Reset, with pulses counted. -/
def counted (p0 p1 : Word) : State := { State.reset with tach := { State.reset.tach with pulse := #v[p0, p1] } }

/-- Reset, with the PWM registers of channel 0 and the counter at a point. -/
def counting (active : Half) (cnt : Half) (dir : PwmDir) : State :=
  { State.reset with pwm := { duty := #v[100, 200], dutyActive := #v[active, 160], cnt := cnt, dir := dir } }

/-- Everything at once: a frame half received, one record queued at the ring's end, a frame half sent. -/
def busy : State :=
  { State.reset with
    rx := (receiving [0xAA, 0x03, 0x31] 2).rx
    q := (queued 9 1).q
    pwm := (counting 320 320 .down).pwm
    tach := (counted 5 2).tach
    tx := (emitting 1).tx }

/-! ## Well-formedness: one ill-formed term for each check -/

theorem test_config_reference : Config.reference.valid = true := by decide
theorem test_config_fanCount : ({ Config.reference with fanCount := 3 } : Config).valid = false := by decide
theorem test_config_tempCount : ({ Config.reference with tempCount := 5 } : Config).valid = false := by decide
theorem test_config_deviceId : ({ Config.reference with deviceId := 256 } : Config).valid = false := by decide
theorem test_config_timerTop_low : ({ Config.reference with timerTop := 99, clkHz := 4950000 } : Config).valid = false := by decide
theorem test_config_timerTop_high :
    ({ Config.reference with timerTop := 65536, clkHz := 3276800000 } : Config).valid = false := by decide
theorem test_config_pwmSlow : ({ Config.reference with clkHz := 15000000 } : Config).valid = false := by decide
theorem test_config_pwmFast : ({ Config.reference with clkHz := 17000000 } : Config).valid = false := by decide
theorem test_config_stall_low : ({ Config.reference with stallTimeoutMs := 0 } : Config).valid = false := by decide
theorem test_config_stall_high : ({ Config.reference with stallTimeoutMs := 2147483649 } : Config).valid = false := by decide
theorem test_config_spacing : ({ Config.reference with spacingMs := 2147483649 } : Config).valid = false := by decide
theorem test_config_window_low : ({ Config.reference with rpmWindowMs := 0 } : Config).valid = false := by decide
theorem test_config_window_high : ({ Config.reference with rpmWindowMs := 2147483649 } : Config).valid = false := by decide
theorem test_config_cycles : ({ Config.reference with cyclesPerRev := 0 } : Config).valid = false := by decide
theorem test_config_initDuty : ({ Config.reference with initDutyPercent := 101 } : Config).valid = false := by decide
theorem test_config_txBuf_low : ({ Config.reference with txBufBytes := 12 } : Config).valid = false := by decide
theorem test_config_txBuf_high : ({ ref with txBufBytes := 256 } : Config).valid = false := by decide
theorem test_config_probe_low : ({ ref with probePendingMax := 0 } : Config).valid = false := by decide
theorem test_config_fixed : ([{ ref with rxStartByte := 0xAB }, { ref with txStartByte := 0xAA }, { ref with rxLenMin := 1 },
    { ref with rxLenMax := 6, rxBufBytes := 8 }, { ref with rxBufBytes := 8 }, { ref with queueCap := 9 }, { ref with maxFans := 3 },
    { ref with rpmScale := 6000 }, { ref with crcPoly := 0x31 }, { ref with crcInit := 0xFF }] : List Config).all (fun c => !c.valid) := by
  decide
theorem test_config_extremes : ({ ref with txBufBytes := 255, probePendingMax := 1000 } : Config).valid = true := by decide
theorem test_inputs_lanes_few : ({ quiet with dpPayload := [] } : Inputs).wellFormed Config.reference = false := by decide
theorem test_inputs_lanes_right : quiet.wellFormed Config.reference = true := by decide

/-! ## Decoding: words written out from R93 and R100 (sections 1.1, 2.2, 2.4 to 2.7) -/

theorem test_decode_probeDevice : decode ref (.frame [0xAA, 0x02, 0x01, 0x53]) = .ok .probeDevice := by decide
theorem test_decode_getTemp : decode ref (.frame [0xAA, 0x02, 0x20, 0x2E]) = .ok .getTemp := by decide
theorem test_decode_getFanRpm : decode ref (.frame [0xAA, 0x02, 0x30, 0xB3]) = .ok .getFanRpm := by decide
theorem test_decode_getFanPwm : decode ref (.frame [0xAA, 0x03, 0x31, 0xAA, 0x6E]) = .ok (.getFanPwm 0xAA) := by decide
theorem test_decode_setFanPwm : decode ref (.frame [0xAA, 0x04, 0x32, 0x01, 0x64, 0xD1]) = .ok (.setFanPwm 1 100) := by decide
theorem test_decode_eeReadByte : decode ref (.frame [0xAA, 0x04, 0x40, 0x00, 0x10, 0x2C]) = .ok (.eeReadByte 0x00 0x10) := by decide
theorem test_decode_eeWriteByte :
    decode ref (.frame [0xAA, 0x05, 0x41, 0x12, 0x34, 0xAA, 0xEC]) = .ok (.eeWriteByte 0x12 0x34 0xAA) := by decide
theorem test_decode_nop : decode ref (.word 0b000000001111111111111111_00000_000) = .ok (.nop 0xFF 0xFF) := by decide
theorem test_decode_qpop : decode ref (.word 0b000000000000000000000000_00000_001) = .ok (.qpop 0 0) := by decide
theorem test_decode_setpwm : decode ref (.word 0b000000000110010000000001_00000_010) = .ok (.setpwm 1 100) := by decide
theorem test_decode_getpwm : decode ref (.word 0b000000000000000000000010_00000_011) = .ok (.getpwm 2 0) := by decide
theorem test_decode_getrpm : decode ref (.word 0b000000000000000000000001_00000_100) = .ok (.getrpm 1 0) := by decide
theorem test_decode_update : decode ref (.word 0b000000001111111100000000_00000_101) = .ok (.update 0 0xFF) := by decide
theorem test_decode_send : decode ref (.word 0b000000000000000000001110_00000_110) = .ok (.send 14 0) := by decide
theorem test_reject_unknown : decode ref (.frame [0xAA, 0x02, 0xFF, 0x38]) = .error (.frame .unknownCommand) := by decide
theorem test_reject_length : decode ref (.frame [0xAA, 0x03, 0x01, 0x00, 0x92]) = .error (.frame .lengthMismatch) := by decide
theorem test_reject_crc : decode ref (.frame [0xAA, 0x02, 0x01, 0x52]) = .error (.frame .crcMismatch) := by decide
theorem test_reject_op : decode ref (.word 0x00000007) = .error (.word .reservedOp) := by decide
theorem test_reject_bit3 : decode ref (.word 0x00000009) = .error (.word .reservedBits) := by decide
theorem test_reject_bit24 : decode ref (.word 0x01000001) = .error (.word .reservedBits) := by decide
theorem test_table_frame : decodeTableWord 24 0xAA0541 = some (.eeWriteByte 0 0 0) := by decide
theorem test_table_word : decodeTableWord 32 6 = some (.send 0 0) := by decide

/-! ## CRC8 (section 2.1) -/

theorem test_crc_check_value : crc8 ref [0x31, 0x32, 0x33, 0x34, 0x35, 0x36, 0x37, 0x38, 0x39] = 0xA1 := by decide
theorem test_crc_polynomial : crc8 ref [0x80] = 0x8C := by decide

/-! ## The receiver (section 2.2) -/

theorem test_start_byte : ran (step (given State.reset (byte 0xAA)))
    (fun t => t.rx.state = .awaitLen && t.rx.count = 1 && t.out.errFlags = 0) = true := by decide
theorem test_length_5 : ran (step (given awaitingLen (byte 0x05)))
    (fun t => t.rx.state = .awaitPayload && t.rx.remaining = 5 && t.rx.count = 2) = true := by decide
theorem test_length_6 : ran (step (given awaitingLen (byte 0x06)))
    (fun t => t.rx.state = .idle && t.out.errFlags = 0x0004) = true := by decide
theorem test_length_not_start : ran (step (given awaitingLen (byte 0xAA)))
    (fun t => t.rx.state = .idle && t.out.errFlags = 0x0004) = true := by decide
theorem test_payload_start_is_data : ran (step (given (receiving [0xAA, 0x03, 0x31] 2) (byte 0xAA)))
    (fun t => t.rx.state = .awaitPayload && t.rx.remaining = 1 && t.rx.buf[3] = 0xAA) = true := by decide
theorem test_wrong_trailer : ran (step (given (receiving [0xAA, 0x02, 0x01] 1) (byte 0x52)))
    (fun t => t.rx.state = .idle && t.out.errFlags = 0x0002 && !t.out.rxCmdValid) = true := by decide
theorem test_unknown_command : ran (step (given (receiving [0xAA, 0x02, 0x02] 1) (byte 0xB1)))
    (fun t => t.rx.state = .idle && t.out.errFlags = 0x0008 && !t.out.rxCmdValid) = true := by decide
theorem test_length_mismatch : ran (step (given (receiving [0xAA, 0x03, 0x32, 0x00] 1) (byte 0xEA)))
    (fun t => t.rx.state = .idle && t.out.errFlags = 0x0010 && t.q.count = 0) = true := by decide
theorem test_stall_250 : ran (step (given (atMs 249 (receiving [0xAA, 0x03, 0x31] 2)) (tickLine draws)))
    (fun t => t.rx.state = .awaitPayload && t.out.errFlags = 0) = true := by decide
theorem test_stall_251 : ran (step (given (atMs 250 (receiving [0xAA, 0x03, 0x31] 2)) (tickLine draws)))
    (fun t => t.rx.state = .idle && t.out.errFlags = 0x0001) = true := by decide
theorem test_stall_then_start : ran (step (given (atMs 251 (receiving [0xAA, 0x03, 0x31] 2)) (byte 0xAA)))
    (fun t => t.rx.state = .awaitLen && t.rx.start = 251 && t.out.errFlags = 0x0001) = true := by decide

/-! ## The request frames (section 1.2, T1), each run by a step from its last byte -/

theorem test_probeDevice : ran (step (State.reset.withFetchWord 24 0xAA0201))
    (fun t => t.out.rxCmd = 0x00000001 && t.q.count = 0 && t.out.txData = 0xC5 && t.tx.probePending = 0 &&
      decide (t.tx.buf.take 7 = [0xC5, 0x05, 0x01, 0x07, 0x02, 0x02, 0x7E])) = true := by decide
theorem test_getTemp : ran (step (State.reset.withFetchWord 24 0xAA0220))
    (fun t => t.out.rxCmd = 0x00000020 && t.q.entry[0] = 0x00000020 && t.out.qCount = 1) = true := by decide
theorem test_getFanRpm : ran (step (State.reset.withFetchWord 24 0xAA0230))
    (fun t => t.out.rxCmdValid && t.q.entry[0] = 0x00000030) = true := by decide
theorem test_getFanPwm : ran (step (given (receiving [0xAA, 0x03, 0x31, 0x01] 1) (byte 0xE1)))
    (fun t => t.q.entry[0] = 0x00000131) = true := by decide
theorem test_setFanPwm : ran (step (given (receiving [0xAA, 0x04, 0x32, 0x01, 0x64] 1) (byte 0xD1)))
    (fun t => t.q.entry[0] = 0x00640132) = true := by decide
theorem test_eeReadByte : ran (step (given (receiving [0xAA, 0x04, 0x40, 0x00, 0x10] 1) (byte 0x2C)))
    (fun t => t.q.entry[0] = 0x00100040) = true := by decide
theorem test_eeWriteByte : ran (step (given (receiving [0xAA, 0x05, 0x41, 0x00, 0x10, 0x5A] 1) (byte 0x67)))
    (fun t => t.q.entry[0] = 0x5A100041) = true := by decide

/-! ## The queue (section 2.3) -/

theorem test_qpop_empty : ran (step (State.reset.withFetchWord 32 1))
    (fun t => t.out.dpStatus = .empty && t.out.dpData = 0 && t.q.count = 0) = true := by decide
theorem test_qpop_wraps : ran (step (given (queued 9 1) (word 0x00000001 [])))
    (fun t => t.out.dpStatus = .ok && t.out.dpData = 0x00000931 && t.q.head = 0 && t.q.count = 0) = true := by decide
theorem test_push_full : ran (step (given { queued 3 10 with rx := (receiving [0xAA, 0x02, 0x30] 1).rx } (byte 0xB3)))
    (fun t => t.q = (queued 3 10).q && t.out.errFlags = 0x0020 && t.out.rxCmd = 0x00000030) = true := by decide
theorem test_pop_before_push : ran (step (given { queued 3 10 with rx := (receiving [0xAA, 0x02, 0x30] 1).rx }
      { word 0x00000001 [] with rxValid := true, rxData := 0xB3 }))
    (fun t => t.out.dpData = 0x00000331 && t.q.head = 4 && t.q.count = 10 && t.q.entry[3] = 0x00000030 &&
      t.out.errFlags = 0) = true := by decide

/-! ## PWM (sections 2.4 and 3, P7) -/

theorem test_nop_ignores : ran (step (given State.reset (word 0x00FFFF00 [])))
    (fun t => t.out.dpStatus = .ok && t.out.dpData = 0 && t.out.errFlags = 0) = true := by decide
theorem test_illegal_word : ran (step (given (queued 9 1) (word 0x00000009 [])))
    (fun t => t.out.dpStatus = .illegal && t.out.errFlags = 0x0400 && t.q.count = 1) = true := by decide
theorem test_setpwm : ran (step (given State.reset (word 0x00640102 [])))
    (fun t => t.out.dpStatus = .ok && t.pwm.duty = #v[160, 0] && t.pwm.dutyActive = #v[160, 160]) = true := by decide
theorem test_setpwm_both_bad : ran (step (given State.reset (word 0x00C80302 [])))
    (fun t => t.out.dpStatus = .fail && t.out.errFlags = 0x0300 && t.pwm.duty = #v[160, 160]) = true := by decide
theorem test_getpwm : ran (step (State.reset.withFetchWord 32 3))
    (fun t => t.out.dpStatus = .ok && t.out.dpData = 50) = true := by decide
theorem test_getpwm_inactive : ran (step (given State.reset (word 0x00000203 [])))
    (fun t => t.out.dpStatus = .ok && t.out.dpData = 0) = true := by decide
theorem test_map_fwd_table : [0, 1, 13, 50, 99, 100].map (fun p => (dutyOf 320 p).toNat) = [320, 317, 279, 160, 4, 0] := by decide
theorem test_map_inv_table : [1, 3, 159, 161, 316].map (mapInv 320) = [99, 99, 50, 49, 1] := by decide
theorem test_top_loads : ran (step (given (counting 160 319 .up) quiet))
    (fun t => t.pwm.cnt = 320 && t.pwm.dir = .down && t.pwm.dutyActive = #v[100, 200] && t.out.pwmPin = #v[false, false]) = true := by
  decide
theorem test_pin_319_at_320_down : ran (step (given (counting 319 320 .down) quiet))
    (fun t => !t.out.pwmPin[0] && t.pwm.cnt = 319) = true := by decide
theorem test_pin_1_at_0_up : ran (step (given (counting 1 0 .up) quiet))
    (fun t => t.out.pwmPin[0] && t.pwm.cnt = 1) = true := by decide

/-! ## Tachometer (section 2.5) -/

theorem test_edge_counts : ran (step (given (counted 5 2) (tachLine draws 0 false)))
    (fun t => t.tach.pulse = #v[6, 2] && t.tach.prev = #v[false, true]) = true := by decide
theorem test_update_not_due : ran (step (given (atMs 999 (counted 5 2)) (word 0x00000005 [])))
    (fun t => t.out.dpStatus = .ok && t.out.dpData = 0 && t.tach = (counted 5 2).tach) = true := by decide
theorem test_capture_old : ran (step (given (atMs 1000 (counted 9 0))
      { word 0x00000005 [] with tach := #v[false, true], captureDraw := #v[.old, .lost] }))
    (fun t => t.tach.lastRpm[0] = 300 && t.tach.pulse[0] = 0) = true := by decide
theorem test_capture_new : ran (step (given (atMs 1000 (counted 9 0))
      { word 0x00000005 [] with tach := #v[false, true], captureDraw := #v[.new, .lost] }))
    (fun t => t.tach.lastRpm[0] = 270 && t.tach.pulse[0] = 1) = true := by decide
theorem test_rpm_table : [(0, 1000), (33, 1000), (100, 1001), (50, 1500), (7, 1999), (2184, 1000), (2185, 1000)].map
    (fun ne => rpm ref ne.1 ne.2) = [0, 990, 2997, 1000, 105, 65520, 65535] := by decide
theorem test_getrpm : ran (step (given { State.reset with tach := { State.reset.tach with lastRpm := #v[150, 60] } } (word 0x00000104 [])))
    (fun t => t.out.dpStatus = .ok && t.out.dpData = 60) = true := by decide
theorem test_getrpm_inactive : ran (step (given State.reset (word 0x00000204 [])))
    (fun t => t.out.dpStatus = .ok && t.out.dpData = 0) = true := by decide

/-! ## The sender (section 2.6) -/

theorem test_send_13 : ran (step (given State.reset (word 0x00000D06 [0, 1, 2, 3, 4, 5, 6, 7, 8, 9, 10, 11, 12])))
    (fun t => t.out.dpStatus = .ok && t.tx.len = 16 && decide (t.tx.buf =
      [0xC5, 0x0E, 0x00, 0x01, 0x02, 0x03, 0x04, 0x05, 0x06, 0x07, 0x08, 0x09, 0x0A, 0x0B, 0x0C, 0x16])) = true := by decide
/-- The largest buffer and count of R6's range that the tests use. -/
abbrev wide : Config := { ref with txBufBytes := 40, probePendingMax := 1000 }
theorem test_send_28_fits_the_length : ran (step (given (State.afterReset wide) (word 0x00001C06 (List.replicate 28 0))))
    (fun t => t.out.dpStatus = .ok && t.tx.len = 31 && t.tx.state = .emit) = true := by decide
theorem test_send_29_has_a_free_length : ran (step (given (State.afterReset wide) (word 0x00001D06 (List.replicate 29 0))))
    (fun t => t.out.dpStatus = .ok && t.tx.len = 9 && t.tx.state = .emit && t.tx.idx = 1 && t.tx.buf.getD 1 0 = 30) = true := by decide
theorem test_send_14_while_emitting : ran (step (given (emitting 1) (word 0x00000E06 [])))
    (fun t => t.out.dpStatus = .fail && t.out.errFlags = 0x0040 && t.out.txData = 0x02 && t.tx.idx = 2) = true := by decide
theorem test_last_byte : ran (step (given (emitting 3) quiet))
    (fun t => t.out.txData = 0xF5 && t.tx.state = .space && t.tx.idx = 4 && t.tx.spaceStart = 0 && t.out.txBusy) = true := by decide
theorem test_idle_tx_data_is_free : ran (step (given State.reset quiet))
    (fun t => !t.out.txValid && t.out.txData = 0xEE) = true := by decide
theorem test_back_pressure : ran (step (given (emitting 1) (readyLine draws false)))
    (fun t => t.out.txValid && t.out.txData = 0x02 && t.tx.idx = 1) = true := by decide
theorem test_spacing_49 : ran (step (given (atMs 49 (spacing 0)) quiet))
    (fun t => t.tx.state = .space && t.out.txBusy) = true := by decide
theorem test_spacing_50_refuses : ran (step (given (atMs 50 (spacing 0)) (word 0x00000106 [0x41])))
    (fun t => t.tx.state = .idle && t.out.dpStatus = .busy && t.out.errFlags = 0x0080 && !t.out.txBusy) = true := by decide
theorem test_probe_reply_other : replyFrame ref (probePayload { ref with deviceId := 0xFF, tempCount := 4 }) =
    [0xC5, 0x05, 0x01, 0xFF, 0x04, 0x02, 0x7C] := by decide

/-! ## Reset and the dispatch loop (sections 2.8, 2.9) -/

theorem test_reset_ignores_inputs : ran (step (given busy { word 0x00000001 [] with rst := true, rxValid := true, rxData := 0xAA }))
    (fun t => t.rx.state = .idle && t.q.count = 0 && t.pwm.duty = #v[160, 160] && !t.out.dpRespValid && !t.out.txBusy &&
      t.out.pwmPin = #v[true, true]) = true := by decide
theorem test_reply_temp : replyFrame ref (replyGetTemp Config.reference #v[230, 0xFF9C, 0x1111, 0x2222]) =
    [0xC5, 0x0B, 0x20, 0x02, 0x00, 0xE6, 0xFF, 0x9C, 0x00, 0x00, 0x00, 0x00, 0xE4] := by decide
theorem test_reply_rpm : replyFrame ref (replyGetFanRpm Config.reference 3000 0) =
    [0xC5, 0x07, 0x30, 0x02, 0x0B, 0xB8, 0x00, 0x00, 0x5D] := by decide
theorem test_reply_fail : replyFrame ref (replySetFanPwm false) = [0xC5, 0x02, 0xFF, 0xC2] := by decide
theorem test_reply_ee : replyFrame ref (replyEeReadByte 0x5A) = [0xC5, 0x04, 0x40, 0x01, 0x5A, 0xAE] := by decide
theorem test_loop_serves : ran (systemStep { temperature := #v[0, 0, 0, 0], readByte := 0x5A, writeOk := true }
      { loop := .setPwm 0 101, block := given State.reset quiet })
    (fun sys => sys.loop = .reply [0xFF] && sys.block.out.dpStatus = .fail && !sys.block.out.txBusy) = true := by decide
theorem test_loop_waits : ran (systemStep { temperature := #v[0, 0, 0, 0], readByte := 0x5A, writeOk := true }
      { loop := .setPwm 1 100, block := given (emitting 1) quiet })
    (fun sys => sys.loop = .await [0x32] && sys.block.out.dpStatus = .ok && sys.block.out.txBusy) = true := by decide

/-! ## Witnesses: concrete states and operands that meet an obligation's hypotheses -/

/-- The goal of a witness about a whole step: the step goes on, and a property of the next state decides. -/
theorem step_goes {s : State} (p : State → Bool) (h : ran (step s) p = true) : ∃ t, step s = .next t ∧ p t = true := ran_next h

/-! ### Encodings -/

theorem witness_Crc8FoldsItsStepOverTheBytes : ref.valid = true := by decide

theorem witness_Crc8DetectsSingleBitErrors :
    ref.valid = true ∧ (7 : Nat) < 8 ∧ crc8 ref ([0xAA, 0x02] ++ [0x01 ^^^ BitVec.twoPow 8 7] ++ []) ≠ 0x53 := by decide

theorem witness_Crc8IsLinear : ref.valid = true ∧ ([0xAA, 0x02, 0x01] : List Byte).length = ([0xAA, 0x02, 0x20] : List Byte).length ∧
    crc8 ref [0xAA, 0x02, 0x01] ^^^ crc8 ref [0xAA, 0x02, 0x20] = 0x7D := by decide

theorem witness_DecodeOfEncodeIsTheInstruction : ref.valid = true ∧ (Instr.eeWriteByte 0xFF 0xFF 0xFF).wellFormed = true := by decide

theorem witness_EncodeOfDecodedIsThePacket : ref.valid = true ∧
    decode ref (.frame [0xAA, 0x04, 0x32, 0x02, 0x32, 0x82]) = .ok (.setFanPwm 2 50) ∧
    decode ref (.word 0x00FFFF06) = .ok (.send 0xFF 0xFF) := by decide

theorem witness_ReservedDispatchWordsAreIllegal :
    (during State.reset (word 0xFFFF0000 [])).inp.dpValid = true ∧
    decodeWord (during State.reset (word 0xFFFF0000 [])).inp.dpWord = .error .reservedBits := by decide

/-! ### The receiver -/

theorem witness_ByteInIdleStartsAFrameOnlyOnAA :
    (during State.reset (byte 0xAA)).cfg.valid = true ∧
    (during State.reset (byte 0xAA)).rx.state = .idle ∧ (during State.reset (byte 0xAA)).inp.rxValid = true ∧
    (during State.reset (byte 0xAA)).inp.rxData = 0xAA ∧
    (during State.reset (byte 0xC5)).inp.rxValid = true ∧ (during State.reset (byte 0xC5)).inp.rxData ≠ 0xAA ∧
    (during State.reset quiet).rx.state = .idle ∧ (during State.reset quiet).inp.rxValid = false := by decide

theorem witness_LengthByteIsTakenExactlyInRange : ∀ b ∈ [0x01#8, 0x02#8, 0x05#8, 0x06#8],
    (during (atMs 250 awaitingLen) (byte b)).cfg.valid = true ∧
    (during (atMs 250 awaitingLen) (byte b)).rx.state = .awaitLen ∧ (during (atMs 250 awaitingLen) (byte b)).inp.rxValid = true ∧
    elapsed (during (atMs 250 awaitingLen) (byte b)) awaitingLen.rx.start ≤ Config.reference.stallTimeoutMs := by decide

theorem witness_PayloadByteIsStored : ∀ s ∈ [receiving [0xAA, 0x03] 3, receiving [0xAA, 0x05, 0x41, 0x00, 0x10, 0x5A] 1],
    (during s (byte 0x67)).cfg.valid = true ∧ (during s (byte 0x67)).rx.state = .awaitPayload ∧ (during s (byte 0x67)).inp.rxValid = true ∧
    elapsed (during s (byte 0x67)) s.rx.start ≤ s.cfg.stallTimeoutMs ∧ s.rx.count.toNat < 7 ∧
    (s.rx.remaining = 1 ∨ s.rx.remaining = 3) := by decide

theorem witness_TrailerCheckDropsOrDecodesTheFrame :
    (receiving [0xAA, 0x02, 0x01] 1).cfg.valid = true ∧
    receivedBytes (storeByte 0x52 (receiving [0xAA, 0x02, 0x01] 1)).rx = frameBody 0x01 [] ++ [0x52] ∧
    (0x52 : Byte) ≠ crc8 ref (frameBody 0x01 []) ∧
    receivedBytes (storeByte 0xB1 (receiving [0xAA, 0x02, 0x02] 1)).rx = frameBody 0x02 [] ++ [0xB1] ∧
    (0xB1 : Byte) = crc8 ref (frameBody 0x02 []) ∧ requiredLen 0x02 = none ∧
    receivedBytes (storeByte 0x92 (receiving [0xAA, 0x03, 0x01, 0x00] 1)).rx = frameBody 0x01 [0x00] ++ [0x92] ∧
    (0x92 : Byte) = crc8 ref (frameBody 0x01 [0x00]) ∧ requiredLen 0x01 = some 2 ∧
    receivedBytes (storeByte 0x67 (receiving [0xAA, 0x05, 0x41, 0x00, 0x10, 0x5A] 1)).rx =
      frameBody 0x41 [0x00, 0x10, 0x5A] ++ [0x67] ∧
    (0x67 : Byte) = crc8 ref (frameBody 0x41 [0x00, 0x10, 0x5A]) ∧ requiredLen 0x41 = some 5 := by decide

theorem witness_StallCheckComesFirstAndIsStrict :
    ((during (atMs 250 awaitingLen) quiet).rx.state = .awaitLen ∧
      (atMs 250 awaitingLen).msClock - awaitingLen.rx.start = 250 ∧ quiet.rxValid = false) ∧
    ((during (atMs 251 (receiving [0xAA, 0x03, 0x31] 2)) (byte 0xAA)).rx.state = .awaitPayload ∧
      (atMs 251 (receiving [0xAA, 0x03, 0x31] 2)).msClock - (receiving [0xAA, 0x03, 0x31] 2).rx.start = 251 ∧
      (byte 0xAA).rxValid = true ∧ (byte 0xAA).rxData = 0xAA) ∧
    (atMs 250 awaitingLen).cfg.valid = true ∧ State.reset.cfg.stallTimeoutMs = 250 := by decide

theorem witness_FeedingAValidFrameDecodesItOnce :
    State.reset.cfg.valid = true ∧ State.reset.rx.state = .idle ∧ encode State.reset.cfg (.setFanPwm 1 100) = .frame [0xAA, 0x04, 0x32, 0x01, 0x64, 0xD1] ∧
    ([0xAA, 0x04, 0x32, 0x01, 0x64, 0xD1] : List Byte).length = ([0, 0, 100, 249, 250] : List Word).length + 1 ∧
    InTime State.reset 0 [0, 0, 100, 249, 250] := by
  refine ⟨by decide, by decide, by decide, by decide, ?_⟩
  intro t ht
  simp only [List.mem_cons, List.not_mem_nil, or_false] at ht
  rcases ht with rfl | rfl | rfl | rfl | rfl <;> decide

theorem witness_FeedingAWrongTrailerDecodesNothing :
    State.reset.cfg.valid = true ∧ State.reset.rx.state = .idle ∧ encode State.reset.cfg .probeDevice = .frame ([0xAA, 0x02, 0x01] ++ [0x53]) ∧
    ([0xAA, 0x02, 0x01] : List Byte).length = ([0, 0, 250] : List Word).length ∧
    InTime State.reset 0 [0, 0, 250] ∧ (0x54 : Byte) ≠ 0x53 := by
  refine ⟨by decide, by decide, by decide, by decide, ?_, by decide⟩
  intro t ht
  simp only [List.mem_cons, List.not_mem_nil, or_false] at ht
  rcases ht with rfl | rfl | rfl <;> decide

theorem witness_ProbeDeviceOwesOneMoreReply :
    (spacing 254).tx.probePending.toNat ≠ (spacing 254).cfg.probePendingMax ∧ (spacing 254).tx.probePending.toNat < 255 ∧
    (spacing 255).tx.probePending.toNat = (spacing 255).cfg.probePendingMax ∧
    (spacing 255).tx.probePending.toNat ≠ wide.probePendingMax := by decide

/-! ### The queue -/

theorem queueInv_queued (head count : BitVec 4) (h : count.toNat ≤ 10) (h' : head.toNat < 10) : QueueInv ref (queued head count).q :=
  ⟨h, h'⟩

theorem witness_PushAppendsOrDropsTheNewest :
    ref.valid = true ∧
    QueueInv ref (queued 5 9).q ∧ (requestPush 0x20 (queued 5 9)).wires.push = some 0x20 ∧ (queued 5 9).q.count.toNat < 10 ∧
    QueueInv ref (queued 3 10).q ∧ (requestPush 0x20 (queued 3 10)).wires.push = some 0x20 ∧ (queued 3 10).q.count.toNat = 10 :=
  ⟨by decide, queueInv_queued 5 9 (by decide) (by decide), by decide, by decide, queueInv_queued 3 10 (by decide) (by decide),
    by decide, by decide⟩

theorem witness_QpopReturnsTheOldestRecord :
    ref.valid = true ∧ QueueInv ref (queued 0 0).q ∧ queueContents ref (queued 0 0).q = [] ∧
    QueueInv ref (queued 9 2).q ∧ queueContents ref (queued 9 2).q = [0x00000931, 0x00000031] :=
  ⟨by decide, queueInv_queued 0 0 (by decide) (by decide), by decide, queueInv_queued 9 2 (by decide) (by decide), by decide⟩

/-- Reset with other receiver, queue and sender registers meets the invariant if they do. -/
theorem inv_of_reset {r : Rx} {q : Queue} {x : Tx} (hr : RxInv ref r) (hq : QueueInv ref q) (hx : TxInv ref x) (l : List Inputs) :
    Inv { State.reset with rx := r, q := q, tx := x, script := l } where
  cfg := (by decide : ref.valid = true)
  rx := hr
  queue := hq
  pwm := (⟨by decide, (by decide : State.reset.pwm.cnt.toNat < ref.timerTop)⟩ : PwmInv ref State.reset.pwm)
  tach := (by unfold TachInv; decide : TachInv ref State.reset.tach)
  tx := hx

theorem decodes_next {s : State} {i : Instr} (h : ran (receivePhase (frontPhases s)) (fun r => decide (r.2 = some i)) = true) :
    DecodesNext s i := by
  obtain ⟨⟨u, j⟩, hu, hj⟩ := ran_next (p := fun r : State × Option Instr => decide (r.2 = some i)) h
  obtain rfl : j = some i := of_decide_eq_true hj
  exact ⟨u, hu⟩

/-- The receiver that holds all of a three-byte frame body meets its invariant. -/
theorem rxInv_receiving (cmd : Byte) : RxInv ref (receiving [0xAA, 0x02, cmd] 1).rx :=
  ⟨rfl, (by decide : 2 ≤ 2), (by decide : 2 ≤ 5), (by decide : 1 ≤ 1), (by decide : 1 ≤ 2), rfl⟩

/-- The step in which the last byte of GetFanRpm arrives together with this dispatch word, with this much queued. -/
def lastByteOfGetFanRpm (count : BitVec 4) (w : Word) : State :=
  { State.reset with
    rx := (receiving [0xAA, 0x02, 0x30] 1).rx, q := (queued 3 count).q, tx := State.reset.tx
    script := [{ word w [] with rxValid := true, rxData := 0xB3 }] }

theorem lastByteOfGetFanRpm_inv (count : BitVec 4) (w : Word) (h : count.toNat ≤ 10) : Inv (lastByteOfGetFanRpm count w) :=
  inv_of_reset (rxInv_receiving 0x30) (queueInv_queued 3 count h (by decide))
    (by unfold TxInv; decide) _

theorem witness_PopComesBeforeThePush :
    (Inv (lastByteOfGetFanRpm 10 0x00000001) ∧ (nextInputs (lastByteOfGetFanRpm 10 0x00000001)).rst = false ∧
      DecodesNext (lastByteOfGetFanRpm 10 0x00000001) .getFanRpm ∧ Instr.getFanRpm ≠ .probeDevice ∧
      DispatchesNext (lastByteOfGetFanRpm 10 0x00000001) (.qpop 0 0) ∧
      (queueContents ref (lastByteOfGetFanRpm 10 0x00000001).q).length = 10) ∧
    (Inv (lastByteOfGetFanRpm 0 0x00000001) ∧ (nextInputs (lastByteOfGetFanRpm 0 0x00000001)).rst = false ∧
      DecodesNext (lastByteOfGetFanRpm 0 0x00000001) .getFanRpm ∧
      DispatchesNext (lastByteOfGetFanRpm 0 0x00000001) (.qpop 0 0) ∧
      queueContents ref (lastByteOfGetFanRpm 0 0x00000001).q = []) :=
  ⟨⟨lastByteOfGetFanRpm_inv _ _ (by decide), by decide, decodes_next (by decide), by decide, by unfold DispatchesNext; decide,
      by decide⟩,
    lastByteOfGetFanRpm_inv _ _ (by decide), by decide, decodes_next (by decide), by unfold DispatchesNext; decide, by decide⟩

/-! ### The fans -/

theorem witness_SetpwmWritesTheInvertedMap :
    Config.reference.valid = true ∧ Config.reference.fanCount ≤ (2 : Byte).toNat ∧ 100 < (101 : Byte).toNat ∧
    (1 : Byte).toNat < Config.reference.fanCount ∧ (100 : Byte).toNat ≤ 100 := by decide

theorem witness_GetpwmReadsTheInverseMap :
    (1 : Fin Extent.fans).val < State.reset.cfg.fanCount ∧ (counting 160 0 .up).pwm.duty[1].toNat ≤ State.reset.cfg.timerTop ∧
    State.reset.cfg.fanCount ≤ (2 : Byte).toNat := by decide

theorem witness_PwmRoundTripIsWithinOne :
    Config.reference.valid = true ∧ (1 : Byte).toNat < Config.reference.fanCount ∧ (100 : Byte).toNat ≤ 100 ∧
    (100 : Byte).toNat * Config.reference.timerTop % 100 = 0 := by decide

theorem witness_PwmCounterRunsUpAndDown : ∀ s ∈ [counting 160 319 .up, counting 160 0 .up, counting 160 1 .down, counting 160 320 .down],
    s.cfg.valid = true ∧
    (∀ c : Fin Extent.fans, c.val < s.cfg.fanCount →
      s.pwm.duty[c].toNat ≤ s.cfg.timerTop ∧ s.pwm.dutyActive[c].toNat ≤ s.cfg.timerTop) ∧
    (s.pwm.dir = .up ∧ s.pwm.cnt.toNat < s.cfg.timerTop ∨
      s.pwm.dir = .down ∧ 1 ≤ s.pwm.cnt.toNat ∧ s.pwm.cnt.toNat ≤ s.cfg.timerTop) := by decide

theorem witness_PinIsHighForTwiceTheDuty :
    Config.reference.valid = true ∧ (0 : Fin Extent.fans).val < Config.reference.fanCount ∧
    (counting 319 320 .down).pwm.dir = .down ∧ (counting 319 320 .down).pwm.cnt.toNat = Config.reference.timerTop ∧
    (counting 319 320 .down).pwm.dutyActive[0].toNat ≤ Config.reference.timerTop := by decide

theorem witness_PinComparesTheActiveDuty :
    (nextInputs (given (counting 319 320 .down) quiet)).rst = false ∧
    (∃ t, step (given (counting 319 320 .down) quiet) = .next t ∧ (decide (t.out.pwmPin[0] = false)) = true) ∧
    (∃ t, step (given { State.reset with cfg := { Config.reference with fanCount := 1 } } quiet) = .next t ∧
      (decide (t.cfg.fanCount ≤ 1)) = true) :=
  ⟨by decide, step_goes (fun t => decide (t.out.pwmPin[0] = false)) (by decide),
    step_goes (fun t => decide (t.cfg.fanCount ≤ 1)) (by decide)⟩

theorem witness_OnlySetpwmWritesTheDuty :
    (nextInputs (given (counting 160 319 .up) quiet)).rst = false ∧
    (¬ ∃ c p, DispatchesNext (given (counting 160 319 .up) quiet) (.setpwm c p)) ∧
    (∃ t, step (given (counting 160 319 .up) quiet) = .next t ∧ (decide (t.pwm.dutyActive = #v[100, 200])) = true) :=
  ⟨by decide, fun h => absurd h.choose_spec.choose_spec.1 (by decide),
    step_goes (fun t => decide (t.pwm.dutyActive = #v[100, 200])) (by decide)⟩

/-- The step of a falling edge on channel 0, with no dispatch word. -/
def edgeStep : State := given (counted 5 2) (tachLine draws 0 false)

/-- The same edge in a step with an UPDATE that is not due, at 999 ms. -/
def earlyUpdateStep : State :=
  given (atMs 999 (counted 5 2)) { word 0x00000005 [] with tach := #v[false, true] }

theorem earlyUpdate_time (t : State) (h : step earlyUpdateStep = .next t) :
    (t.msClock - earlyUpdateStep.tach.windowStart).toNat < earlyUpdateStep.cfg.rpmWindowMs := by
  obtain ⟨u, hu, hp⟩ := step_goes (s := earlyUpdateStep)
    (fun t => decide ((t.msClock - earlyUpdateStep.tach.windowStart).toNat < earlyUpdateStep.cfg.rpmWindowMs)) (by decide)
  rw [hu] at h
  cases h
  exact of_decide_eq_true hp

theorem witness_PulsesCountFallingEdges :
    ((nextInputs edgeStep).rst = false ∧ (¬ ∃ a b, DispatchesNext edgeStep (.update a b)) ∧
      (∃ t, step edgeStep = .next t ∧ (decide (t.tach.pulse[0] = 6)) = true) ∧
      FallingEdgeNext edgeStep 0 ∧ ¬ FallingEdgeNext edgeStep 1) ∧
    ((nextInputs earlyUpdateStep).rst = false ∧ DispatchesNext earlyUpdateStep (.update 0 0) ∧
      (∃ t, step earlyUpdateStep = .next t ∧ (decide (t.tach.pulse[0] = 6)) = true) ∧ FallingEdgeNext earlyUpdateStep 0) :=
  ⟨⟨by decide, fun h => absurd h.choose_spec.choose_spec.1 (by decide),
    step_goes (fun t => decide (t.tach.pulse[0] = 6)) (by decide), by unfold FallingEdgeNext; decide, by unfold FallingEdgeNext; decide⟩,
   ⟨by decide, by unfold DispatchesNext; decide,
    step_goes (fun t => decide (t.tach.pulse[0] = 6)) (by decide), by unfold FallingEdgeNext; decide⟩⟩

theorem witness_UpdateClosesADueWindow :
    Config.reference.valid = true ∧
    ((atMs 999 State.reset).msClock - State.reset.tach.windowStart).toNat < Config.reference.rpmWindowMs ∧
    Config.reference.rpmWindowMs ≤ ((atMs 1000 State.reset).msClock - State.reset.tach.windowStart).toNat := by decide

/-- The step of a due UPDATE with a falling edge on channel 0 and the given draw for it. -/
def captureStep (k : CaptureDraw) : State :=
  given (atMs 1000 (counted 9 0)) { word 0x00000005 [] with tach := #v[false, true], captureDraw := #v[k, .lost] }

theorem witness_CaptureDrawPlacesACoincidentEdge : ∀ k ∈ [CaptureDraw.old, .new, .lost],
    (captureStep k).cfg.valid = true ∧ (nextInputs (captureStep k)).rst = false ∧
    DispatchesNext (captureStep k) (.update 0 0) ∧ FallingEdgeNext (captureStep k) 0 ∧ ¬ FallingEdgeNext (captureStep k) 1 ∧
    (nextInputs (captureStep k)).captureDraw[0] = k ∧
    ran (step (captureStep k)) (fun t => decide (1000 ≤ (t.msClock - (captureStep k).tach.windowStart).toNat)) = true := by
  unfold DispatchesNext FallingEdgeNext
  decide

theorem witness_GetrpmReadsTheLastRpm : (1 : Fin Extent.fans).val < State.reset.cfg.fanCount ∧
    State.reset.cfg.fanCount ≤ (2 : Byte).toNat := by decide

/-! ### The sender -/

theorem witness_SendLoadsAFrameOrIsRefused :
    (Config.reference.valid = true ∧ (during State.reset (word 0x00000D06 [])).inp.wellFormed Config.reference = true) ∧
    Config.reference.txBufBytes - 3 < (14 : Byte).toNat ∧ (13 : Byte).toNat ≤ Config.reference.txBufBytes - 3 ∧
    State.reset.tx.state = .idle ∧ State.reset.tx.probePending = 0 ∧ (spacing 0).tx.state ≠ .idle ∧
    wide.valid = true ∧ (29 : Byte).toNat ≤ wide.txBufBytes - 3 := by decide

theorem witness_ProbeReplyBeginsWhenNothingIsEmitted :
    (spacing 255).cfg.valid = true ∧ (spacing 255).tx.state = .space ∧ (spacing 255).tx.probePending ≠ 0 ∧
    (probeRequest State.reset).tx.state = .idle ∧ (probeRequest State.reset).tx.probePending ≠ 0 := by decide

theorem witness_EmissionOffersTheByteUntilItIsTaken : ∀ idx ∈ [0#5, 3#5],
    (emitting idx).tx.state = .emit ∧ (emitting idx).tx.idx.toNat < (emitting idx).tx.len.toNat ∧
    (emitting idx).tx.idx.toNat < (emitting idx).tx.buf.length := by decide

theorem witness_SpacingEndsAtItsDeadline :
    (spacing 0).tx.state = .space ∧ (spacing 0).tx.probePending = 0 ∧
    ((atMs 49 (spacing 0)).msClock - (spacing 0).tx.spaceStart).toNat < (spacing 0).cfg.spacingMs ∧
    (spacing 0).cfg.spacingMs ≤ ((atMs 50 (spacing 0)).msClock - (spacing 0).tx.spaceStart).toNat ∧
    (spacing 1).tx.state = .space ∧ (spacing 1).tx.probePending ≠ 0 := by decide

theorem witness_SenderBecomesIdleOnlyAfterTheSpacing :
    (nextInputs (given (atMs 49 (spacing 0)) (tickLine draws))).rst = false ∧
    (given (atMs 49 (spacing 0)) (tickLine draws)).tx.state ≠ .idle ∧
    (∃ t, step (given (atMs 49 (spacing 0)) (tickLine draws)) = .next t ∧ (decide (t.tx.state = .idle)) = true) :=
  ⟨by decide, by decide, step_goes (fun t => decide (t.tx.state = .idle)) (by decide)⟩

theorem witness_TxBusyShowsTheSender : (nextInputs (given (emitting 3) quiet)).rst = false ∧
    (∃ t, step (given (emitting 3) quiet) = .next t ∧ (decide (t.tx.state ≠ .idle)) = true) :=
  ⟨by decide, step_goes (fun t => decide (t.tx.state ≠ .idle)) (by decide)⟩

/-- The step in which the last byte of ProbeDevice arrives together with a SEND, with these sender registers. -/
def lastByteOfProbe (x : Tx) : State :=
  { State.reset with
    rx := (receiving [0xAA, 0x02, 0x01] 1).rx, q := State.reset.q, tx := x
    script := [{ word 0x00000D06 [] with rxValid := true, rxData := 0x53 }] }

theorem lastByteOfProbe_meets {x : Tx} (h : TxInv ref x)
    (hd : ran (receivePhase (frontPhases (lastByteOfProbe x))) (fun r => decide (r.2 = some .probeDevice)) = true) :
    Inv (lastByteOfProbe x) ∧ (nextInputs (lastByteOfProbe x)).rst = false ∧ DecodesNext (lastByteOfProbe x) .probeDevice ∧
    DispatchesNext (lastByteOfProbe x) (.send 13 0) ∧ (13 : Byte).toNat ≤ (lastByteOfProbe x).cfg.txPayloadMax ∧
    (lastByteOfProbe x).cfg.probePendingMax ≤ 255 :=
  ⟨inv_of_reset (rxInv_receiving 0x01) ⟨by decide, by decide⟩ h _, rfl, decodes_next hd,
    ⟨rfl, (by decide : decodeWord 0x00000D06 = .ok (.send 13 0))⟩, (by decide : 13 ≤ ref.txPayloadMax),
    (by decide : ref.probePendingMax ≤ 255)⟩

theorem witness_ProbeBlocksTheSendOfItsStep : ∀ x ∈ [State.reset.tx, (emitting 3).tx, (spacing 255).tx],
    Inv (lastByteOfProbe x) ∧ (nextInputs (lastByteOfProbe x)).rst = false ∧ DecodesNext (lastByteOfProbe x) .probeDevice ∧
    DispatchesNext (lastByteOfProbe x) (.send 13 0) ∧ (13 : Byte).toNat ≤ (lastByteOfProbe x).cfg.txPayloadMax ∧
    (lastByteOfProbe x).cfg.probePendingMax ≤ 255 := by
  intro x hx
  simp only [List.mem_cons, List.not_mem_nil, or_false] at hx
  rcases hx with rfl | rfl | rfl <;> exact lastByteOfProbe_meets (by unfold TxInv; decide) (by decide)

/-! ### The whole machine -/

/-- The invariant in a state with a partial frame, a queued record, a running counter and a frame half sent. -/
theorem busy_inv_before : Inv busy where
  cfg := by decide
  rx := ⟨by decide, by decide, by decide, by decide, by decide, by decide⟩
  queue := queueInv_queued 9 1 (by decide) (by decide)
  pwm := ⟨by decide, ⟨by decide, by decide⟩⟩
  tach := by unfold TachInv; decide
  tx := by unfold TxInv; decide

theorem busy_inv (i : Inputs) : Inv (given busy i) :=
  ⟨busy_inv_before.cfg, busy_inv_before.rx, busy_inv_before.queue, busy_inv_before.pwm, busy_inv_before.tach, busy_inv_before.tx⟩

theorem busy_emits_before : EmitsReplyFrame ref busy.tx := fun _ => ⟨[0x32], by decide, by decide⟩

theorem busy_emits (i : Inputs) : EmitsReplyFrame ref (given busy i).tx := busy_emits_before

theorem busy_records (i : Inputs) : QueueHoldsRecords ref (given busy i).q := by
  intro w hw
  have hq : queueContents ref busy.q = [recordOf 0x31 9 0 0] := by decide
  rw [show queueContents ref (given busy i).q = [recordOf 0x31 9 0 0] from hq, List.mem_singleton] at hw
  exact .inr (.inr (.inl ⟨9, hw⟩))

/-- The next step of `busy` with a QPOP, which goes on. -/
theorem busy_pops : ∃ t, step (given busy (word 0x00000001 [])) = .next t ∧ (decide (t.out.dpData = 0x00000931)) = true :=
  step_goes (fun t => decide (t.out.dpData = 0x00000931)) (by decide)

theorem witness_QueueIsFirstInFirstOut :
    (∀ w ∈ [0x00000001#32, 0x00000005#32],
      Inv (lastByteOfGetFanRpm 10 w) ∧ (nextInputs (lastByteOfGetFanRpm 10 w)).rst = false ∧
      DecodesNext (lastByteOfGetFanRpm 10 w) .getFanRpm ∧ (lastByteOfGetFanRpm 10 w).q.count.toNat = ref.queueCap ∧
      (∃ t, step (lastByteOfGetFanRpm 10 w) = .next t ∧ (decide (t.q.count = 10)) = true)) ∧
    (Inv (lastByteOfGetFanRpm 9 0x00000005) ∧ DecodesNext (lastByteOfGetFanRpm 9 0x00000005) .getFanRpm ∧
      (lastByteOfGetFanRpm 9 0x00000005).q.count.toNat < ref.queueCap ∧
      (∃ t, step (lastByteOfGetFanRpm 9 0x00000005) = .next t ∧ (decide (t.q.count = 10)) = true)) ∧
    DispatchesNext (lastByteOfGetFanRpm 10 0x00000001) (.qpop 0 0) ∧
    (¬ ∃ a b, DispatchesNext (lastByteOfGetFanRpm 10 0x00000005) (.qpop a b)) ∧
    (∃ t, step (given State.reset (word 0x00000001 [])) = .next t ∧ (decide (t.out.dpStatus = .empty)) = true) ∧
    (∀ i, DecodesNext (given busy quiet) i → i = .probeDevice) := by
  refine ⟨?_, ⟨lastByteOfGetFanRpm_inv _ _ (by decide), decodes_next (by decide), by decide,
      step_goes (fun t => decide (t.q.count = 10)) (by decide)⟩, by unfold DispatchesNext; decide, ?_,
    step_goes (fun t => decide (t.out.dpStatus = .empty)) (by decide), ?_⟩
  · intro w hw
    simp only [List.mem_cons, List.not_mem_nil, or_false] at hw
    rcases hw with rfl | rfl <;>
      exact ⟨lastByteOfGetFanRpm_inv _ _ (by decide), rfl, decodes_next (by decide), by decide,
        step_goes (fun t => decide (t.q.count = 10)) (by decide)⟩
  · rintro ⟨a, b, -, h⟩
    have : decodeWord (nextInputs (lastByteOfGetFanRpm 10 0x00000005)).dpWord = .ok (.update 0 0) := by decide
    rw [this] at h
    cases h
  · rintro i ⟨u, h⟩
    obtain ⟨r, hr, hp⟩ := ran_next (o := receivePhase (frontPhases (given busy quiet)))
      (p := fun r : State × Option Instr => decide (r.2 = none)) (by decide)
    rw [hr] at h
    cases h
    exact absurd (of_decide_eq_true hp) (by simp)

theorem witness_NothingInterruptsAnEmission :
    Inv (given busy (word 0x00000106 [0x41])) ∧ (nextInputs (given busy (word 0x00000106 [0x41]))).rst = false ∧
    (given busy (word 0x00000106 [0x41])).tx.state = .emit ∧
    (∃ t, step (given busy (word 0x00000106 [0x41])) = .next t ∧ (decide (t.out.txData = 0x02)) = true) :=
  ⟨busy_inv _, by decide, by decide, step_goes (fun t => decide (t.out.txData = 0x02)) (by decide)⟩

theorem witness_ResetStepSetsEveryRegister :
    (given busy (resetLine draws)).cfg.valid = true ∧ (nextInputs (given busy (resetLine draws))).rst = true := by decide

theorem witness_ResetMeetsTheInvariant :
    ({ Config.reference with fanCount := 0, tempCount := 4, deviceId := 255 } : Config).valid = true := by decide

theorem witness_StepGoesOnAndKeepsTheInvariant : Inv (given busy (byte 0x01)) := busy_inv _

theorem witness_OnlyAnIllegalConfigurationIsRefused :
    ({ State.reset with cfg := { Config.reference with fanCount := 3 } } : State).cfg.valid = false ∧ State.reset.cfg.valid = true := by
  decide

/-- A receiver whose count points past its buffer, with a byte. -/
def overfull : State := during { State.reset with rx := { (receiving [0xAA, 0x05] 1).rx with count := 7 } } (byte 0x00)

theorem witness_UnreachableStatesFault :
    (State.reset.cfg.valid = true ∧
      (nextInputs (given { State.reset with rx := { State.reset.rx with state := .reserved } } quiet)).rst = false) ∧
    (overfull.rx.state = .awaitPayload ∧ overfull.inp.rxValid = true ∧
      elapsed overfull overfull.rx.start ≤ overfull.cfg.stallTimeoutMs ∧ overfull.cfg.rxBufBytes ≤ overfull.rx.count.toNat) ∧
    decodeFrame ref (receivedBytes (receiving [0xAB, 0x02, 0x01, 0x53] 1).rx) = .error .badStart ∧
    decodeFrame ref (receivedBytes (receiving [0xAA, 0x06, 0x01, 0x53] 1).rx) = .error .invalidLength ∧
    decodeFrame ref (receivedBytes (receiving [0xAA, 0x02, 0x01] 1).rx) = .error .badExtent ∧
    (emitting 4).tx.state = .emit ∧ (emitting 4).tx.len.toNat ≤ (emitting 4).tx.idx.toNat ∧
    (queued 10 1).q.count ≠ 0 ∧ (queued 10 1).cfg.queueCap ≤ (queued 10 1).q.head.toNat ∧
    (0 : Fin Extent.fans).val < State.reset.cfg.fanCount ∧
    State.reset.cfg.timerTop < ({ State.reset.pwm with duty := #v[321, 0] } : Pwm).duty[0].toNat := by decide

theorem witness_NoStepChangesTheConfiguration :
    (∃ t, step (given busy (resetLine draws)) = .next t ∧ (decide (t.cfg.fanCount = 2)) = true) :=
  step_goes (fun t => decide (t.cfg.fanCount = 2)) (by decide)

theorem witness_ClockAdvancesExactlyOnTheTick :
    (nextInputs (given (atMs 0xFFFFFFFF busy) (tickLine draws))).rst = false ∧
    (nextInputs (given (atMs 0xFFFFFFFF busy) (tickLine draws))).tick1ms = true ∧
    (∃ t, step (given (atMs 0xFFFFFFFF busy) (tickLine draws)) = .next t ∧ (decide (t.msClock = 0)) = true) ∧
    (nextInputs (given busy quiet)).tick1ms = false ∧
    (∃ t, step (given busy quiet) = .next t ∧ (decide (t.msClock = 0)) = true) :=
  ⟨by decide, by decide, step_goes (fun t => decide (t.msClock = 0)) (by decide), by decide,
    step_goes (fun t => decide (t.msClock = 0)) (by decide)⟩

/-- The receiver about to get the last byte of ProbeDevice. -/
def lastByte : State := during (receiving [0xAA, 0x02, 0x01] 1) (byte 0x53)

theorem witness_StepRunsTheDecodedInstructions :
    (State.reset.cfg.valid = true ∧ (nextInputs (given State.reset quiet)).rst = false ∧
      ran (receivePhase (frontPhases (given State.reset quiet))) (fun r => decide (r.2 = none)) = true ∧
      ran (receivePhase (frontPhases (given (receiving [0xAA, 0x02, 0x01] 1) (byte 0x53))))
        (fun r => decide (r.2 = some .probeDevice)) = true) ∧
    (lastByte.cfg.valid = true ∧ lastByte.rx.state = .awaitPayload ∧ lastByte.inp.rxValid = true ∧ lastByte.rx.remaining = 1 ∧ lastByte.rx.count.toNat < 7 ∧
      elapsed lastByte lastByte.rx.start ≤ lastByte.cfg.stallTimeoutMs ∧
      decodeFrame lastByte.cfg (receivedBytes (storeByte lastByte.inp.rxData lastByte).rx) = .ok .probeDevice) ∧
    (during State.reset quiet).inp.dpValid = false ∧
    (during State.reset (word 0x00000005 [])).inp.dpValid = true ∧
    decodeWord (during State.reset (word 0x00000005 [])).inp.dpWord = .ok (.update 0 0) := by decide

theorem witness_EveryDispatchWordGetsOneResponse :
    (nextInputs (given busy quiet)).rst = false ∧ (nextInputs (given busy quiet)).dpValid = false ∧
    (∃ t, step (given busy quiet) = .next t ∧ (decide (t.out.dpRespValid = false)) = true) ∧
    (∃ t, step (given busy (word 0x00000106 [0x41])) = .next t ∧ (decide (t.out.dpStatus ≠ .ok)) = true) :=
  ⟨by decide, by decide, step_goes (fun t => decide (t.out.dpRespValid = false)) (by decide),
    step_goes (fun t => decide (t.out.dpStatus ≠ .ok)) (by decide)⟩

theorem witness_RxCmdIsShownExactlyWhenDecoded :
    ((nextInputs (given (receiving [0xAA, 0x02, 0x01] 1) (byte 0x53))).rst = false ∧
      ran (receivePhase (frontPhases (given (receiving [0xAA, 0x02, 0x01] 1) (byte 0x53))))
        (fun r => decide (r.2 = some .probeDevice)) = true ∧
      (∃ t, step (given (receiving [0xAA, 0x02, 0x01] 1) (byte 0x53)) = .next t ∧ (decide (t.out.rxCmd = 0x00000001)) = true)) ∧
    (ran (receivePhase (frontPhases (given busy quiet))) (fun r => decide (r.2 = none)) = true ∧
      (∃ t, step (given busy quiet) = .next t ∧ (decide (t.out.rxCmdValid = false)) = true)) ∧
    (nextInputs (given busy (resetLine draws))).rst = true ∧
    (∃ t, step (given busy (resetLine draws)) = .next t ∧ (decide (t.out.rxCmdValid = false)) = true) :=
  ⟨⟨by decide, by decide, step_goes (fun t => decide (t.out.rxCmd = 0x00000001)) (by decide)⟩,
    ⟨by decide, step_goes (fun t => decide (t.out.rxCmdValid = false)) (by decide)⟩,
    by decide, step_goes (fun t => decide (t.out.rxCmdValid = false)) (by decide)⟩

theorem witness_AtMostOneReceiverEventPerStep :
    (∃ t, step (given (receiving [0xAA, 0x02, 0x01] 1) (byte 0x52)) = .next t ∧ (decide (t.out.errFlags = 0x0002)) = true) :=
  step_goes (fun t => decide (t.out.errFlags = 0x0002)) (by decide)

theorem witness_EveryEmittedFrameIsAReplyFrame :
    Inv (given busy (word 0x00000001 [])) ∧ EmitsReplyFrame ref (given busy (word 0x00000001 [])).tx ∧ busy.tx.state = .emit ∧
    (∃ t, step (given busy (word 0x00000001 [])) = .next t ∧ (decide (t.out.dpData = 0x00000931)) = true) :=
  ⟨busy_inv _, busy_emits _, by decide, busy_pops⟩

theorem witness_QueueHoldsOnlyPushedKinds :
    Inv (given busy (word 0x00000001 [])) ∧ QueueHoldsRecords ref (given busy (word 0x00000001 [])).q ∧
    (∃ t, step (given busy (word 0x00000001 [])) = .next t ∧ (decide (t.out.dpData = 0x00000931)) = true) :=
  ⟨busy_inv _, busy_records _, busy_pops⟩

/-- The system about to send a reply of the greatest length. -/
def replying : System := { loop := .reply [0x20, 2, 0, 0xE6, 0xFF, 0x9C, 0, 0, 0, 0], block := given State.reset quiet }

theorem replying_fits : LoopFits replying.loop := by
  rintro payload (h | h) <;> cases h
  decide

/-- The same with the sender busy: the reply waits. -/
def waiting : System := { loop := .await [0x32], block := given (emitting 1) quiet }

theorem waiting_fits : LoopFits waiting.loop := by
  rintro payload (h | h) <;> cases h
  decide

theorem witness_DispatchLoopWaitsAndDrivesLegalWords :
    (replying.block.cfg.valid = true ∧ LoopFits replying.loop ∧
      (∃ sys, systemStep { temperature := #v[0, 0, 0, 0], readByte := 0, writeOk := true } replying = .next sys ∧
        (decide (sys.block.tx.len = 13) && decide (sys.loop = .update)) = true)) ∧
    (waiting.block.cfg.valid = true ∧ LoopFits waiting.loop ∧ (nextInputs waiting.block).rst = false ∧
      (∃ sys, systemStep { temperature := #v[0, 0, 0, 0], readByte := 0, writeOk := true } waiting = .next sys ∧
        (decide (sys.loop = .await [0x32])) = true)) :=
  ⟨⟨by decide, replying_fits, ran_next (p := fun sys : System => decide (sys.block.tx.len = 13) && decide (sys.loop = .update)) (by decide)⟩,
    by decide, waiting_fits, by decide, ran_next (p := fun sys : System => decide (sys.loop = .await [0x32])) (by decide)⟩

/-- A system, or what its next step leaves. -/
def serve (sys : System) : System :=
  match systemStep { temperature := #v[230, 0xFF9C, 0, 0], readByte := 0x5A, writeOk := true } sys with
  | .next t => t
  | _ => sys

/-- The system after some steps of serving a GetFanRpm record, with quiet inputs for them. -/
def serving : Nat → System
  | 0 => { loop := .poll, block :=
      { State.reset with q := { State.reset.q with entry := Vector.replicate _ 0x00000030, count := 1 }
                         script := List.replicate 4 quiet } }
  | n + 1 => serve (serving n)

theorem serve_goes {sys : System}
    (h : ran (systemStep { temperature := #v[230, 0xFF9C, 0, 0], readByte := 0x5A, writeOk := true } sys) (fun _ => true) = true) :
    systemStep { temperature := #v[230, 0xFF9C, 0, 0], readByte := 0x5A, writeOk := true } sys = .next (serve sys) := by
  obtain ⟨t, ht, -⟩ := ran_next h
  rw [ht]; unfold serve; rw [ht]

theorem witness_DispatchLoopKeepsPollingAndUpdating : ∀ k, k < 4 →
    systemStep { temperature := #v[230, 0xFF9C, 0, 0], readByte := 0x5A, writeOk := true } (serving k) = .next (serving (k + 1)) ∧
    (nextInputs (serving k).block).rst = false := by
  intro k hk
  refine ⟨serve_goes ?_, ?_⟩ <;> revert k <;> decide

/-- A system with this one record queued. -/
def loaded (l : LoopState) (w : Word) : System :=
  { loop := l, block := given { State.reset with q := { State.reset.q with entry := Vector.replicate _ w, count := 1 } } quiet }

theorem loaded_inv (l : LoopState) (w : Word) : Inv (loaded l w).block where
  cfg := (by decide : ref.valid = true)
  rx := ⟨rfl, rfl⟩
  queue := ⟨(by decide : 1 ≤ 10), (by decide : 0 < 10)⟩
  pwm := ⟨(by decide : ∀ c : Fin Extent.fans, c.val < 2 → State.reset.pwm.duty[c].toNat ≤ 320 ∧ State.reset.pwm.dutyActive[c].toNat ≤ 320),
    (by decide : 0 < 320)⟩
  tach := (by unfold TachInv; decide : TachInv ref State.reset.tach)
  tx := (by unfold TxInv; decide : TxInv ref State.reset.tx)

/-- GetTemp with the temperatures of R242's example, and SETPWM's answer for a channel out of range (R245). -/
theorem witness_DispatchLoopAnswersEachRecord :
    (Inv (loaded .poll 0x00000020).block ∧ (nextInputs (loaded .poll 0x00000020).block).rst = false ∧
      queueContents ref (loaded .poll 0x00000020).block.q = [recordWord .getTemp] ∧
      (∃ sys, systemStep { temperature := #v[230, 0xFF9C, 0, 0], readByte := 0, writeOk := true } (loaded .poll 0x00000020) = .next sys ∧
        (decide (sys.loop = .reply [0x20, 0x02, 0x00, 0xE6, 0xFF, 0x9C, 0, 0, 0, 0])) = true)) ∧
    (Inv (loaded (.setPwm 2 50) 0).block ∧ (nextInputs (loaded (.setPwm 2 50) 0).block).rst = false ∧
      (∃ sys, systemStep { temperature := #v[0, 0, 0, 0], readByte := 0, writeOk := true } (loaded (.setPwm 2 50) 0) = .next sys ∧
        (decide (sys.loop = .reply [0xFF])) = true)) :=
  ⟨⟨loaded_inv _ _, by decide, by decide, ran_next (p := fun sys : System =>
      decide (sys.loop = .reply [0x20, 0x02, 0x00, 0xE6, 0xFF, 0x9C, 0, 0, 0, 0])) (by decide)⟩,
    loaded_inv _ _, by decide, ran_next (p := fun sys : System => decide (sys.loop = .reply [0xFF])) (by decide)⟩

/-! ### Runs -/

/-- The last byte of a frame is taken in the first step, and nothing happens after it. -/
theorem witness_FairUartEndsEveryEmission :
    Inv (runFrom (fun _ => quiet) (emitting 3) 0) ∧ IsRun (fun _ => quiet) (runFrom (fun _ => quiet) (emitting 3)) ∧
    UartIsFair (fun _ => quiet) (runFrom (fun _ => quiet) (emitting 3)) ∧ (runFrom (fun _ => quiet) (emitting 3) 0).tx.state = .emit := by
  have hquiet : QuietInputs quiet := ⟨rfl, rfl, rfl⟩
  have hfirst : ran (step (given (emitting 3) quiet)) (fun t => decide (t.cfg.valid = true) && decide (t.rx.state = .idle) &&
      decide (t.tx.state = .space) && decide (t.tx.probePending = 0)) = true := by decide
  obtain ⟨t, ht, hp⟩ := ran_next hfirst
  simp only [Bool.and_eq_true, decide_eq_true_eq] at hp
  obtain ⟨⟨⟨hv, hrx⟩, htx⟩, howed⟩ := hp
  have h1 : runFrom (fun _ => quiet) (emitting 3) 1 = t := runFrom_succ ht
  refine ⟨?_, ?_, fun n _ => ⟨n, Nat.le_refl n, rfl⟩, rfl⟩
  · exact ⟨by decide, ⟨rfl, rfl⟩, ⟨(by decide : 0 ≤ 10), (by decide : 0 < 10)⟩, (loaded_inv .poll 0).pwm, (loaded_inv .poll 0).tach,
      (by unfold TxInv; decide : TxInv ref (emitting 3).tx)⟩
  · intro n
    match n with
    | 0 => rw [h1]; exact ht
    | n + 1 => exact (runFrom_quiet (first := 1) (by rw [h1]; exact ⟨hv, hrx, .inr htx, howed⟩) (fun _ _ => hquiet) (n + 1) (by omega)).1

/-- A tick in every 16 000th step. -/
def ticking (n : Nat) : Inputs := if n % 16000 = 0 then tickLine draws else quiet

theorem ticking_tick (n : Nat) : (ticking n).tick1ms = true ↔ n % 16000 = 0 := by
  unfold ticking; split <;> rename_i h
  · exact ⟨fun _ => h, fun _ => rfl⟩
  · exact ⟨fun ht => absurd ht (by decide), fun hn => absurd hn h⟩

theorem ticking_quiet (n : Nat) : QuietInputs (ticking n) := by
  unfold ticking; split <;> exact ⟨rfl, rfl, rfl⟩

theorem witness_TickRateMakesTheClockCountMilliseconds :
    IsRun ticking (runFrom ticking State.reset) ∧ TicksEachMillisecond (runFrom ticking State.reset 0).cfg ticking ∧
    (∀ n k, k < stepsPerMs (runFrom ticking State.reset 0).cfg → (ticking (n + k)).rst = false) := by
  have hk : stepsPerMs (runFrom ticking State.reset 0).cfg = 16000 := by decide
  refine ⟨fun n => (runFrom_quiet (first := 0) ⟨by decide, rfl, .inl rfl, rfl⟩ (fun n _ => ticking_quiet n) n (Nat.zero_le n)).1, ?_,
    fun n k _ => (ticking_quiet (n + k)).rst⟩
  intro n
  rw [hk]
  refine ⟨(16000 - n % 16000) % 16000, Nat.mod_lt _ (by decide), (ticking_tick _).mpr (by omega), ?_⟩
  intro j hj ht
  have := (ticking_tick _).mp ht
  omega

end Sys2Proof.Tests
end

section
/-! The state: what every step keeps (10_state.md). -/

namespace Sys2Proof.Machine

/-- No phase writes the configuration (R46): not the receiver and its instruction, not the dispatch operation, not the phases after
it. -/
theorem Trace.cfg {s u a b c t : State} {i : Option Instr} (T : Trace s u i a b c t) : t.cfg = s.cfg :=
  calc t.cfg = b.cfg := T.afterStep.cfg
    _ = a.cfg := T.untouched.cfg
    _ = s.cfg := T.afterRequest.cfg

/-- Settles O47 by the two kinds of step: a reset step keeps the configuration (R281), and in any other no phase writes it. -/
theorem noStepChangesTheConfiguration : Obligations.NoStepChangesTheConfiguration := by
  intro s t h
  obtain ⟨hvalid, ⟨-, rfl⟩ | ⟨-, u, i, a, b, c, hreceive, hrequest, hdispatch, hsend, hlast⟩⟩ := step_cases h
  · rw [resetPhase_cfg, beginStep_cfg]
  · exact Trace.cfg ⟨hvalid, hreceive, hrequest, hdispatch, hsend, hlast⟩

end Sys2Proof.Machine
end

section
/-! Dispatch words and their responses (30_encoding.md R101, R106): which words are illegal, and what each word is answered. -/

namespace Sys2Proof.Machine

/-! ## Illegal words -/

/-- A word with a reserved bit set is rejected for it (R106). -/
theorem decodeWord_reservedBits {w : Word} (h : w.extractLsb' 3 5 ≠ 0 ∨ byteOf w 3 ≠ 0) :
    decodeWord w = .error .reservedBits := if_pos h

/-- Of the operation codes below 8 only 111 is illegal (R100, R106). -/
theorem decodeWord_dpWordOf_error_iff (op a b : Byte) (h : op.toNat < 8) :
    (∃ e, decodeWord (dpWordOf op a b) = .error e) ↔ op = 7 := by
  rw [decodeWord_dpWordOf op a b h]
  constructor
  · rintro ⟨e, he⟩
    iterate 7
      split at he
      · cases he
    bv_omega
  · rintro rfl
    exact ⟨.reservedOp, rfl⟩

/-- With the reserved bits 0 a word is illegal exactly for OP = 111. -/
theorem decodeWord_error_iff_of_reserved_zero {w : Word} (hlow : w.extractLsb' 3 5 = 0) (hhigh : byteOf w 3 = 0) :
    (∃ e, decodeWord w = .error e) ↔ w.extractLsb' 0 3 = 0b111#3 := by
  have hop : ((w.extractLsb' 0 3).setWidth 8).toNat < 8 := by
    rw [BitVec.toNat_setWidth]
    omega
  have hcode : (w.extractLsb' 0 3).setWidth 8 = (7 : Byte) ↔ w.extractLsb' 0 3 = 0b111#3 := by
    generalize w.extractLsb' 0 3 = op
    revert op; decide
  have hw := dpWordOf_fields w ((w.extractLsb' 0 3).setWidth 8) hop (by simp) hlow hhigh
  rw [← hcode, ← decodeWord_dpWordOf_error_iff _ (byteOf w 1) (byteOf w 2) hop, hw]

/-- R106's illegal words: OP = 111, or a 1 bit in [7:3] or [31:24]. -/
theorem decodeWord_error_iff (w : Word) : (∃ e, decodeWord w = .error e) ↔
    (w.extractLsb' 0 3 = 0b111#3 ∨ w.extractLsb' 3 5 ≠ 0 ∨ w.extractLsb' 24 8 ≠ 0) := by
  by_cases hr : w.extractLsb' 3 5 ≠ 0 ∨ byteOf w 3 ≠ 0
  · exact ⟨fun _ => .inr hr, fun _ => ⟨_, decodeWord_reservedBits hr⟩⟩
  · obtain ⟨hlow, hhigh⟩ : w.extractLsb' 3 5 = 0 ∧ byteOf w 3 = 0 := by simpa using hr
    rw [decodeWord_error_iff_of_reserved_zero hlow hhigh]
    exact ⟨.inl, fun h => h.resolve_right hr⟩

/-- In phase P4 an illegal word changes nothing but the outputs, which show ILLEGAL with data 0 and ILLEGAL_OP (R106). -/
theorem dispatchFetch_illegal {s : State} (hv : s.inp.dpValid = true) (hw : ∃ e, decodeWord s.inp.dpWord = .error e) :
    dispatchFetch s = (respond .illegal 0 (raise .illegalOp s), none) := by
  obtain ⟨e, he⟩ := hw
  rcases dispatchFetch_cases s with ⟨h, -⟩ | ⟨-, i, hi, -⟩ | ⟨-, -, h⟩
  · rw [hv] at h; cases h
  · rw [he] at hi; cases hi
  · exact h

/-- Settles O9: the illegal words are `decodeWord_error_iff`'s, phase P4 answers them by `dispatchFetch_illegal`, and no meaning
reads a field that R106 has it ignore. -/
theorem reservedDispatchWordsAreIllegal : Obligations.ReservedDispatchWordsAreIllegal :=
  ⟨fun _ _ _ => rfl, decodeWord_error_iff, fun _ hv hw => dispatchFetch_illegal hv hw,
    fun _ _ _ _ _ _ => ⟨rfl, rfl, rfl, rfl, rfl, rfl⟩⟩

/-! ## Responses -/

/-- The status codes are 0 to 4 (R101). -/
theorem DpStatus.code_le (status : DpStatus) : status.code.toNat ≤ 4 := by
  cases status <;> decide

/-- A response is shown, and its data is 0 unless its status is OK (R101). -/
def ShowsResponse (o : Outputs) : Prop := o.dpRespValid = true ∧ (o.dpStatus ≠ .ok → o.dpData = 0)

/-- A response is shown whatever the state it is given in. -/
theorem showsResponse_respond {status : DpStatus} {data : Word} (h : status ≠ .ok → data = 0) (s : State) :
    ShowsResponse (respond status data s).out := ⟨rfl, h⟩

/-- Every dispatch operation responds (R101). -/
theorem PortEffect.showsResponse {s t : State} {i : Instr} (h : PortEffect s i t) : ShowsResponse t.out := by
  cases h with
  | answer status data hs hq hu hd => exact showsResponse_respond hd s
  | sendRefused n b status k hk => exact showsResponse_respond (fun _ => rfl) _
  | setpwmFailed c p bc bp => exact showsResponse_respond (fun _ => rfl) _
  | popped a b h0 hh => exact showsResponse_respond (fun h => absurd rfl h) _
  | dutySet c p hc hp => exact showsResponse_respond (fun _ => rfl) _
  | windowClosed a b he => exact showsResponse_respond (fun h => absurd rfl h) _
  | sent n b hn hidle hp => exact showsResponse_respond (fun _ => rfl) _

/-- The push writes `q_count` and a flag, never the dispatch port's response. -/
theorem pushPhase_response (s : State) : (pushPhase s).out.dpRespValid = s.out.dpRespValid ∧
    (pushPhase s).out.dpStatus = s.out.dpStatus ∧ (pushPhase s).out.dpData = s.out.dpData := by
  rcases pushPhase_cases s with ⟨-, h⟩ | ⟨_, -, ⟨-, h⟩ | ⟨-, h⟩⟩ <;> rw [h] <;> exact ⟨rfl, rfl, rfl⟩

/-- What the dispatch operation responded is what the step shows. -/
theorem AfterStep.response {b c t : State} (h : AfterStep b c t) :
    t.out.dpRespValid = b.out.dpRespValid ∧ t.out.dpStatus = b.out.dpStatus ∧ t.out.dpData = b.out.dpData := by
  rw [h.out]
  exact pushPhase_response b

/-- Until the dispatch operation the response is idle (R10, R101). -/
theorem AfterRequest.response {s a : State} (h : AfterRequest s a) :
    a.out.dpRespValid = false ∧ a.out.dpStatus = .ok ∧ a.out.dpData = 0 := by
  rw [h.out]
  exact ⟨rfl, rfl, rfl⟩

/-- Phase P4 responds exactly when there is a word (R101). -/
theorem Trace.response {s u a b c t : State} {i : Option Instr} (T : Trace s u i a b c t) :
    ((nextInputs s).dpValid = true ∧ ShowsResponse b.out) ∨
    ((nextInputs s).dpValid = false ∧ b.out.dpRespValid = false ∧ b.out.dpStatus = .ok ∧ b.out.dpData = 0) := by
  rcases T.dispatched with ⟨hv, rfl⟩ | ⟨hv, j, -, -, heffect⟩ | ⟨hv, -, rfl⟩
  · exact .inr ⟨hv, T.afterRequest.response⟩
  · exact .inl ⟨hv, heffect.showsResponse⟩
  · exact .inl ⟨hv, showsResponse_respond (fun _ => rfl) _⟩

/-- Settles O50: phase P4 responds exactly to a word (`Trace.response`), and no later phase writes the response. -/
theorem everyDispatchWordGetsOneResponse : Obligations.EveryDispatchWordGetsOneResponse := by
  refine ⟨⟨rfl, rfl, rfl, rfl, rfl⟩, fun s t hr h => ?_⟩
  obtain ⟨u, i, a, b, c, T⟩ := trace_of_step hr h
  obtain ⟨hvalid, hstatus, hdata⟩ := T.afterStep.response
  rw [hvalid, hdata, hstatus]
  rcases T.response with ⟨hv, hshown, hzero⟩ | ⟨hv, hnone, hok, hzero⟩
  · rw [hv, hshown]
    exact ⟨rfl, DpStatus.code_le _, hzero, by simp⟩
  · rw [hv, hnone, hok, hzero]
    exact ⟨rfl, DpStatus.code_le _, fun _ => rfl, fun _ => ⟨rfl, rfl⟩⟩

end Sys2Proof.Machine
end

section
/-! The frame receiver (41_frame_receiver.md): what it does with a byte in each of its states, with a late frame, and with a complete
one. -/

namespace Sys2Proof.Machine

open Sys2Proof.Claims

/-! ## A byte in each state -/

/-- A dropped frame leaves the receiver in IDLE, its flag raised, and nothing else changed (R140, R260). -/
theorem toIdle_raise (k : ErrKind) (s : State) :
    toIdle (raise k s) = { s with rx := inIdle s.rx, out := flagged s.out k.mask } := rfl

/-- 0xAA starts a frame (R141). -/
theorem rxIdle_start {s : State} (hv : s.cfg.valid = true) : rxIdle 0xAA s = { s with rx := afterStart s.rx s.msClock } := by
  have hs := (valid_frame hv).1
  unfold rxIdle
  rw [hs, if_pos rfl, wrAt_of_lt _ (by decide)]
  rfl

/-- Any other byte is ignored in IDLE (R141). -/
theorem rxIdle_ignored {s : State} (hv : s.cfg.valid = true) {b : Byte} (hb : b ≠ 0xAA) : rxIdle b s = s := by
  unfold rxIdle
  rw [(valid_frame hv).1, if_neg hb]

/-- A length byte from 2 to 5 is stored and counts the bytes to come (R142). -/
theorem rxLen_inRange {s : State} (hv : s.cfg.valid = true) {b : Byte} (hmin : 2 ≤ b.toNat) (hmax : b.toNat ≤ 5) :
    rxLen b s = { s with rx := { s.rx with
      state := .awaitPayload, remaining := b.setWidth 3, count := 2, buf := s.rx.buf.set 1 b } } := by
  obtain ⟨-, hlo, hhi⟩ := valid_frame hv
  unfold rxLen
  rw [hlo, hhi, if_pos ⟨hmin, hmax⟩, wrAt_of_lt _ (by decide)]

/-- Any other length byte drops the frame (R104, R142). -/
theorem rxLen_outOfRange {s : State} (hv : s.cfg.valid = true) {b : Byte} (h : b.toNat < 2 ∨ 5 < b.toNat) :
    rxLen b s = toIdle (raise .invalidLength s) := by
  obtain ⟨-, hlo, hhi⟩ := valid_frame hv
  unfold rxLen
  rw [hlo, hhi, if_neg (by omega)]

/-- A payload byte is stored while RX_BUF has room; the trailer check follows if it was the last to come (R143). -/
theorem rxPayload_room {s : State} (hv : s.cfg.valid = true) (hc : s.rx.count.toNat < 7) (b : Byte) :
    rxPayload b s = if s.rx.remaining = 1 then rxTrailer (storeByte b s) else .next (storeByte b s, none) := by
  obtain ⟨-, -, -, -, hbuf, -⟩ := valid_fixed hv
  have hlast : (storeByte b s).rx.remaining = 0 ↔ s.rx.remaining = 1 := by
    change s.rx.remaining - 1 = 0 ↔ s.rx.remaining = 1
    bv_omega
  unfold rxPayload
  rw [if_pos (by omega)]
  simp only [hlast]

/-! ## The receiver phase -/

theorem rxByte_idle {s : State} (h : s.rx.state = .idle) (b : Byte) : rxByte b s = .next (rxIdle b s, none) := by
  unfold rxByte; rw [h]

theorem rxByte_awaitLen {s : State} (h : s.rx.state = .awaitLen) (b : Byte) : rxByte b s = .next (rxLen b s, none) := by
  unfold rxByte; rw [h]

theorem rxByte_awaitPayload {s : State} (h : s.rx.state = .awaitPayload) (b : Byte) : rxByte b s = rxPayload b s := by
  unfold rxByte; rw [h]

/-- The byte of a step is taken after the stall check (R140). -/
theorem receivePhase_byte {s : State} (hr : s.rx.state ≠ .reserved) (hb : s.inp.rxValid = true) :
    receivePhase s = rxByte s.inp.rxData (stallCheck s) := by
  unfold receivePhase
  rw [if_neg hr]
  simp [hb]

/-- Without a byte the receiver only checks for a stall (R140). -/
theorem receivePhase_noByte {s : State} (hr : s.rx.state ≠ .reserved) (hb : s.inp.rxValid = false) :
    receivePhase s = .next (stallCheck s, none) := by
  unfold receivePhase
  rw [if_neg hr]
  simp [hb]

/-- Settles O10: in IDLE nothing times out, and a byte is `rxIdle`'s. -/
theorem byteInIdleStartsAFrameOnlyOnAA : Obligations.ByteInIdleStartsAFrameOnlyOnAA := by
  intro s hv hidle
  have hr : s.rx.state ≠ .reserved := by simp [hidle]
  refine ⟨fun hb hAA => ?_, fun hb hAA => ?_, fun hb => ?_⟩
  · rw [receivePhase_byte hr hb, stallCheck_idle hidle, rxByte_idle hidle, hAA, rxIdle_start hv]
  · rw [receivePhase_byte hr hb, stallCheck_idle hidle, rxByte_idle hidle, rxIdle_ignored hv hAA]
  · rw [receivePhase_noByte hr hb, stallCheck_idle hidle]

/-- Settles O11: a length byte in time is `rxLen`'s. RX_REMAINING's 3 bits hold every length it takes. -/
theorem lengthByteIsTakenExactlyInRange : Obligations.LengthByteIsTakenExactlyInRange := by
  intro s hv hstate hb htime
  have htaken : receivePhase s = .next (rxLen s.inp.rxData s, none) := by
    rw [receivePhase_byte (by simp [hstate]) hb, stallCheck_inTime htime, rxByte_awaitLen hstate]
  refine ⟨fun hmin hmax => ⟨s.inp.rxData.setWidth 3, ?_, ?_⟩, fun hout => ?_⟩
  · rw [BitVec.toNat_setWidth]
    exact Nat.mod_eq_of_lt (by omega)
  · rw [htaken, rxLen_inRange hv hmin hmax]
  · rw [htaken, rxLen_outOfRange hv hout]
    rfl

/-- Settles O12: a payload byte in time is `rxPayload`'s. -/
theorem payloadByteIsStored : Obligations.PayloadByteIsStored := by
  intro s hv hstate hb htime hc
  have htaken : receivePhase s = if s.rx.remaining = 1 then rxTrailer (storeByte s.inp.rxData s)
      else .next (storeByte s.inp.rxData s, none) := by
    rw [receivePhase_byte (by simp [hstate]) hb, stallCheck_inTime htime, rxByte_awaitPayload hstate, rxPayload_room hv hc]
  refine ⟨storeByte s.inp.rxData s, ?_, fun hmore => ?_, fun hlast => ?_⟩
  · unfold storeByte
    rw [wrAt_of_lt _ hc]
  · rw [htaken, if_neg hmore]
  · rw [htaken, if_pos hlast]

/-- Settles O14: up to the deadline the stall check does nothing; past it the frame is dropped, and the byte of the step meets a
receiver in IDLE. -/
theorem stallCheckComesFirstAndIsStrict : Obligations.StallCheckComesFirstAndIsStrict := by
  intro s hv hstate
  have hidle : s.rx.state ≠ .idle := by rcases hstate with h | h <;> simp [h]
  have hr : s.rx.state ≠ .reserved := by rcases hstate with h | h <;> simp [h]
  refine ⟨fun htime hb => ?_, fun hlate => ⟨fun hignored => ?_, fun hb hAA => ?_⟩⟩
  · rw [receivePhase_noByte hr hb, stallCheck_inTime htime]
  · cases hb : s.inp.rxValid with
    | false =>
      rw [receivePhase_noByte hr hb, stallCheck_late hidle hlate]
      rfl
    | true =>
      have hne : s.inp.rxData ≠ 0xAA := hignored.resolve_left (by simp [hb])
      rw [receivePhase_byte hr hb, stallCheck_late hidle hlate, rxByte_idle rfl, rxIdle_ignored (by simpa using hv) hne]
      rfl
  · rw [receivePhase_byte hr hb, stallCheck_late hidle hlate, rxByte_idle rfl, hAA, rxIdle_start (by simpa using hv)]
    rfl

/-! ## The trailer check -/

/-- The flag with which the trailer check drops a frame (R144, R146); the other rejections it never meets (R48(c), (d)). -/
def dropFlag : FrameError → Option ErrKind
  | .crcMismatch => some .crcMismatch
  | .unknownCommand => some .unknownCommand
  | .lengthMismatch => some .lengthMismatch
  | .badStart | .invalidLength | .badExtent => none

/-- A rejected frame is dropped with its flag (R144, R146). -/
theorem rxTrailer_dropped {s : State} {e : FrameError} {k : ErrKind} (he : decodeFrame s.cfg (receivedBytes s.rx) = .error e)
    (hk : dropFlag e = some k) : rxTrailer s = .next (toIdle (raise k s), none) := by
  unfold rxTrailer
  rw [he]
  cases e <;> cases hk <;> rfl

/-- A frame that decodes hands on its instruction (R144, R146). -/
theorem rxTrailer_decoded {s : State} {i : Instr} (h : decodeFrame s.cfg (receivedBytes s.rx) = .ok i) :
    rxTrailer s = .next (toIdle s, some i) := by
  unfold rxTrailer
  rw [h]

/-- R93's seven commands are the ones with a required length (R103). -/
theorem requiredLen_eq_none {cmd : Byte} (h : cmd ∉ [0x01#8, 0x20#8, 0x30#8, 0x31#8, 0x32#8, 0x40#8, 0x41#8]) :
    requiredLen cmd = none := by
  simp only [List.mem_cons, List.not_mem_nil, or_false, not_or] at h
  simp [requiredLen, h]

/-- Settles O13: the received bytes decode by their trailer, then their command, then its length (`decodeFrame_wellShaped`), and
each rejection has its flag. -/
theorem trailerCheckDropsOrDecodesTheFrame : Obligations.TrailerCheckDropsOrDecodesTheFrame := by
  intro s cmd args trailer hv hargs hbytes
  have hdecode : decodeFrame s.cfg (receivedBytes s.rx) =
      if trailer = crc8 s.cfg (frameBody cmd args) then decodeCommand cmd args else .error .crcMismatch := by
    rw [hbytes]
    exact decodeFrame_wellShaped hv cmd args trailer hargs
  refine ⟨fun hwrong => ?_, fun hright => ?_⟩
  · rw [if_neg hwrong] at hdecode
    exact rxTrailer_dropped hdecode rfl
  · rw [if_pos hright] at hdecode
    refine ⟨fun hunknown => ?_, fun L hL hne => ?_, fun L hL heq => ?_⟩
    · exact rxTrailer_dropped (hdecode.trans (decodeCommand_unknown args (requiredLen_eq_none hunknown))) rfl
    · exact rxTrailer_dropped (hdecode.trans (decodeCommand_badLength hL hne)) rfl
    · obtain ⟨i, hi⟩ := decodeCommand_known (hL.trans (congrArg some heq))
      refine ⟨i, ?_, rxTrailer_decoded (hdecode.trans hi)⟩
      rw [(decodeCommand_ok s.cfg hi).1, frameOf_eq hv, hright]
      rfl

/-! ## The record of a decoded command -/

/-- A record as a number, its bytes from the least significant up (R95). -/
theorem recordOf_eq_ofNat {tag a1 a2 a3 : Byte} {n : Nat}
    (h : n = tag.toNat + 256 * a1.toNat + 65536 * a2.toNat + 16777216 * a3.toNat) : recordOf tag a1 a2 a3 = BitVec.ofNat 32 n := by
  apply BitVec.eq_of_toNat_eq
  rw [recordOf, packBytes_toNat, BitVec.toNat_ofNat, h]
  omega

/-- A request that enqueues its record shows it and hands it to the push (R146). -/
theorem showsAndPushes_of_enqueue {i : Instr} {rec : Word} (hexec : ∀ s, exec i s = .next (enqueue rec s))
    (hrec : rec = recordWord i) : ShowsAndPushes i := by
  intro s
  rw [hexec, hrec]
  rfl

/-- Every request but ProbeDevice shows its record and hands it to the push (R148 to R150). -/
theorem queuedRequest_showsAndPushes {i : Instr} (hi : i.isRequest = true) (hp : i ≠ .probeDevice) : ShowsAndPushes i := by
  cases i
  case probeDevice => exact absurd rfl hp
  case getTemp => exact showsAndPushes_of_enqueue (fun _ => rfl) rfl
  case getFanRpm => exact showsAndPushes_of_enqueue (fun _ => rfl) rfl
  case getFanPwm channel => exact showsAndPushes_of_enqueue (fun _ => rfl) (recordOf_eq_ofNat (by simp [commandRecord]))
  case setFanPwm channel pwm => exact showsAndPushes_of_enqueue (fun _ => rfl) (recordOf_eq_ofNat (by simp [commandRecord]))
  case eeReadByte addrH addrL => exact showsAndPushes_of_enqueue (fun _ => rfl) (recordOf_eq_ofNat (by simp [commandRecord]))
  case eeWriteByte addrH addrL value =>
    exact showsAndPushes_of_enqueue (fun _ => rfl) (recordOf_eq_ofNat (by simp [commandRecord]))
  all_goals cases hi

/-- Settles O17: each of the six is a request other than ProbeDevice. -/
theorem queuedRequestsPushTheirRecord : Obligations.QueuedRequestsPushTheirRecord :=
  fun _ _ _ _ _ => ⟨queuedRequest_showsAndPushes rfl nofun, queuedRequest_showsAndPushes rfl nofun,
    queuedRequest_showsAndPushes rfl nofun, queuedRequest_showsAndPushes rfl nofun, queuedRequest_showsAndPushes rfl nofun,
    queuedRequest_showsAndPushes rfl nofun⟩

/-! ## `rx_cmd` -/

/-- A record's number fits 32 bits, so `rx_cmd` shows all of it (R95). -/
theorem recordWord_toNat (i : Instr) : (recordWord i).toNat = commandRecord i := by
  rw [recordWord, BitVec.toNat_ofNat]
  apply Nat.mod_eq_of_lt
  cases i <;> simp only [commandRecord] <;> omega

/-- `rx_cmd` shows this command's record (R153). -/
def ShowsRecord (o : Outputs) (i : Instr) : Prop := o.rxCmdValid = true ∧ o.rxCmd = recordWord i

/-- Counting an owed reply leaves `rx_cmd` alone (R147). -/
theorem probeRequest_rxCmd (s : State) :
    (probeRequest s).out.rxCmdValid = s.out.rxCmdValid ∧ (probeRequest s).out.rxCmd = s.out.rxCmd := by
  by_cases h : s.tx.probePending.toNat = s.cfg.probePendingMax
  · rw [probeRequest_full h]; exact ⟨rfl, rfl⟩
  · rw [probeRequest_room h]; exact ⟨rfl, rfl⟩

/-- Every request shows its record, ProbeDevice too (R147 to R150). -/
theorem exec_request_showsRecord {i : Instr} {s t : State} (hi : i.isRequest = true) (h : exec i s = .next t) :
    ShowsRecord t.out i := by
  by_cases hp : i = .probeDevice
  · subst hp
    cases h
    exact probeRequest_rxCmd _
  · rw [queuedRequest_showsAndPushes hi hp s] at h
    cases h
    exact ⟨rfl, rfl⟩

/-- No dispatch operation writes `rx_cmd` (R153). -/
theorem PortEffect.rxCmd {s t : State} {i : Instr} (h : PortEffect s i t) :
    t.out.rxCmdValid = s.out.rxCmdValid ∧ t.out.rxCmd = s.out.rxCmd := by
  cases h with
  | answer => exact ⟨rfl, rfl⟩
  | sendRefused => exact ⟨rfl, rfl⟩
  | setpwmFailed c p bc bp => simp only [respond_out, raiseIf_out, and_self]
  | popped => exact ⟨rfl, rfl⟩
  | dutySet => exact ⟨rfl, rfl⟩
  | windowClosed => exact ⟨rfl, rfl⟩
  | sent => exact ⟨rfl, rfl⟩

/-- The push writes `q_count` and a flag, never `rx_cmd`. -/
theorem pushPhase_rxCmd (s : State) :
    (pushPhase s).out.rxCmdValid = s.out.rxCmdValid ∧ (pushPhase s).out.rxCmd = s.out.rxCmd := by
  rcases pushPhase_cases s with ⟨-, h⟩ | ⟨_, -, ⟨-, h⟩ | ⟨-, h⟩⟩ <;> rw [h] <;> exact ⟨rfl, rfl⟩

/-- What the receiver's instruction left on `rx_cmd` is what the step shows (R153). -/
theorem Trace.rxCmd {s u a b c t : State} {i : Option Instr} (T : Trace s u i a b c t) :
    t.out.rxCmdValid = a.out.rxCmdValid ∧ t.out.rxCmd = a.out.rxCmd := by
  have hport : b.out.rxCmdValid = a.out.rxCmdValid ∧ b.out.rxCmd = a.out.rxCmd := by
    rcases T.dispatched with ⟨-, rfl⟩ | ⟨-, j, -, -, heffect⟩ | ⟨-, -, rfl⟩
    · exact ⟨rfl, rfl⟩
    · exact heffect.rxCmd
    · exact ⟨rfl, rfl⟩
  obtain ⟨hvalid, hcmd⟩ := pushPhase_rxCmd b
  rw [T.afterStep.out]
  exact ⟨hvalid.trans hport.1, hcmd.trans hport.2⟩

/-- A step that decodes a command shows its record (R153). -/
theorem Trace.rxCmd_decoded {s u a b c t : State} {i : Instr} (T : Trace s u (some i) a b c t) : ShowsRecord t.out i := by
  obtain ⟨-, -, -, -, -, hrequest⟩ := receivePhase_cases T.receive
  obtain ⟨hvalid, hcmd⟩ := exec_request_showsRecord (hrequest i rfl) T.request
  exact ⟨T.rxCmd.1.trans hvalid, T.rxCmd.2.trans hcmd⟩

/-- A step that decodes none shows nothing (R153). -/
theorem Trace.rxCmd_none {s u a b c t : State} (T : Trace s u none a b c t) : t.out.rxCmdValid = false ∧ t.out.rxCmd = 0 := by
  obtain ⟨rx, flag, rfl, -, -, -⟩ := receivePhase_cases T.receive
  cases T.request
  rw [T.rxCmd.1, T.rxCmd.2, frontPhases_out]
  exact ⟨rfl, rfl⟩

/-- Settles O51: a reset step shows idle outputs (R280), and in any other the receiver's outcome decides (`Trace.rxCmd_decoded`,
`Trace.rxCmd_none`). -/
theorem rxCmdIsShownExactlyWhenDecoded : Obligations.RxCmdIsShownExactlyWhenDecoded := by
  intro s t h
  refine ⟨fun hr => ?_, fun hr => ?_⟩
  · obtain ⟨-, ⟨-, rfl⟩ | ⟨hrun, -⟩⟩ := step_cases h
    · exact ⟨rfl, rfl⟩
    · rw [hr] at hrun; cases hrun
  · obtain ⟨u, i, a, b, c, T⟩ := trace_of_step hr h
    refine ⟨fun v j hj => ?_, fun hnone => ?_⟩
    · cases T.receive.symm.trans hj
      obtain ⟨hvalid, hcmd⟩ := T.rxCmd_decoded
      exact ⟨hvalid, by rw [hcmd, recordWord_toNat]⟩
    · cases i with
      | none => exact T.rxCmd_none
      | some j => exact absurd ⟨u, j, T.receive⟩ hnone

end Sys2Proof.Machine
end

section
/-! The command queue (42_command_queue.md): its push, its pop, and the two in one step. -/

namespace Sys2Proof.Machine

open Sys2Proof.Claims Sys2Proof.Safety

/-! ## The push -/

/-- Settles O19 by `pushPhase_cases`: the ring takes the record (`queueContents_pushed`), or a flag is raised beside an unchanged
ring. -/
theorem pushAppendsOrDropsTheNewest : Obligations.PushAppendsOrDropsTheNewest := by
  intro s rec hv _ hpush
  obtain ⟨-, -, -, -, -, hcap, -⟩ := valid_fixed hv
  rcases pushPhase_cases s with ⟨hnone, -⟩ | ⟨_, hsome, ⟨hroom, hpushed⟩ | ⟨hfull, hdropped⟩⟩
  · rw [hpush] at hnone
    cases hnone
  · cases hpush.symm.trans hsome
    rw [hpushed]
    exact ⟨rfl, rfl, fun _ => ⟨queueContents_pushed hcap s.q rec hroom, rfl, rfl⟩, fun _ => by omega⟩
  · rw [hdropped]
    exact ⟨rfl, rfl, fun _ => by omega, fun _ => ⟨rfl, rfl⟩⟩

/-! ## The pop -/

/-- The ring holds Q_COUNT records (R30). -/
@[simp] theorem queueContents_length (cfg : Config) (q : Queue) : (queueContents cfg q).length = q.count.toNat := by
  simp [queueContents]

/-- A removal lowers Q_COUNT by one (R171). -/
theorem Queue.popped_count_toNat (cfg : Config) {q : Queue} (h0 : q.count ≠ 0) :
    (q.popped cfg).count.toNat + 1 = q.count.toNat := by
  change (q.count - 1).toNat + 1 = q.count.toNat
  bv_omega

/-- A removal advances Q_HEAD modulo QUEUE_CAP = 10 (R171). -/
theorem Queue.popped_head_toNat {cfg : Config} (hcap : cfg.queueCap = 10) (q : Queue) :
    (q.popped cfg).head.toNat = (q.head.toNat + 1) % 10 := by
  simp only [Queue.popped, hcap, BitVec.toNat_ofNat]
  omega

/-- On an empty ring QPOP responds EMPTY (R171). -/
theorem exec_qpop_empty {s : State} (h0 : s.q.count = 0) (a b : Byte) :
    exec (.qpop a b) s = .next { s with out := responded s.out .empty 0 } :=
  if_pos h0

/-- On any other ring QPOP responds with the oldest record, removed (R171). -/
theorem exec_qpop_oldest {s : State} (h0 : s.q.count ≠ 0) (hhead : s.q.head.toNat < s.cfg.queueCap) (a b : Byte) :
    exec (.qpop a b) s = .next { s with
      q := s.q.popped s.cfg, out := responded s.out .ok (rdAt s.q.entry s.q.head.toNat 0) } :=
  (if_neg h0).trans (if_pos hhead)

/-- Settles O20: an empty ring is `exec_qpop_empty`'s, and of any other `exec_qpop_oldest` removes the first record
(`queueContents_popped`). -/
theorem qpopReturnsTheOldestRecord : Obligations.QpopReturnsTheOldestRecord := by
  intro s a b hv ⟨_, hhead⟩
  obtain ⟨-, -, -, -, -, hcap, -⟩ := valid_fixed hv
  refine ⟨fun hnil => exec_qpop_empty ((queueContents_eq_nil _ _).mp hnil) a b, fun w rest hcons => ?_⟩
  have h0 : s.q.count ≠ 0 := fun h => by simp [(queueContents_eq_nil s.cfg s.q).mpr h] at hcons
  obtain ⟨rfl, rfl⟩ := List.cons.inj ((queueContents_popped hcap s.q h0 hhead).symm.trans hcons)
  exact ⟨s.q.popped s.cfg, exec_qpop_oldest h0 hhead a b, rfl, rfl, Queue.popped_count_toNat s.cfg h0,
    Queue.popped_head_toNat hcap s.q⟩

/-! ## The pop and the push of one step -/

/-- What QPOP responds, by the records it finds (R171). -/
def popResponse (o : Outputs) : List Word → Outputs
  | [] => responded o .empty 0
  | w :: _ => responded o .ok w

/-- A response raises no flag (R101). -/
theorem popResponse_errFlags (o : Outputs) (records : List Word) : (popResponse o records).errFlags = o.errFlags := by
  cases records <;> rfl

/-- QPOP in every state that meets R48(e): it responds with the first record, if there is one, and leaves the others. -/
theorem exec_qpop {s : State} (hv : s.cfg.valid = true) (hq : QueueInv s.cfg s.q) (x y : Byte) : ∃ q : Queue,
    exec (.qpop x y) s = .next { s with q := q, out := popResponse s.out (queueContents s.cfg s.q) } ∧
    QueueInv s.cfg q ∧ queueContents s.cfg q = (queueContents s.cfg s.q).tail := by
  obtain ⟨hempty, holdest⟩ := qpopReturnsTheOldestRecord s x y hv hq
  obtain ⟨-, -, -, -, -, hcap, -⟩ := valid_fixed hv
  cases hcontents : queueContents s.cfg s.q with
  | nil => exact ⟨s.q, hempty hcontents, hq, hcontents⟩
  | cons w rest =>
    obtain ⟨q, hexec, hrest, -, hcount, hhead⟩ := holdest w rest hcontents
    obtain ⟨hmax, -⟩ := hq
    exact ⟨q, hexec, ⟨by omega, by omega⟩, hrest⟩

/-- After a QPOP the push has room (R173): at most nine records are left. -/
theorem pushPhase_after_qpop {s : State} {rec : Word} (hv : s.cfg.valid = true) (hq : QueueInv s.cfg s.q)
    (hpush : s.wires.push = some rec) (x y : Byte) : ∃ b : State,
    exec (.qpop x y) s = .next b ∧ b.cfg = s.cfg ∧ b.tx = s.tx ∧ b.out = popResponse s.out (queueContents s.cfg s.q) ∧
    queueContents s.cfg (pushPhase b).q = (queueContents s.cfg s.q).tail ++ [rec] ∧
    (pushPhase b).out.errFlags = s.out.errFlags := by
  obtain ⟨q, hexec, hqLeft, hleft⟩ := exec_qpop hv hq x y
  obtain ⟨-, -, -, -, -, hcap, -⟩ := valid_fixed hv
  obtain ⟨hmax, -⟩ := hq
  have hroom : q.count.toNat < 10 := by
    have hlength := congrArg List.length hleft
    simp only [List.length_tail, queueContents_length] at hlength
    omega
  obtain ⟨-, -, happends, -⟩ := pushAppendsOrDropsTheNewest
    { s with q := q, out := popResponse s.out (queueContents s.cfg s.q) } rec hv hqLeft hpush
  obtain ⟨hcontents, -, hflags⟩ := happends hroom
  exact ⟨_, hexec, rfl, rfl, rfl, hleft ▸ hcontents, hflags.trans (popResponse_errFlags _ _)⟩

/-! ## The step that does both -/

/-- A step that decodes a queued request reaches the dispatch port with the request's record to push, no flag raised, and the queue
and the sender as they were (R146). -/
theorem decodesNext_queuedRequest {s : State} {i : Instr} (hdecodes : DecodesNext s i) (hp : i ≠ .probeDevice) : ∃ u a : State,
    receivePhase (frontPhases s) = .next (u, some i) ∧ exec i u = .next a ∧ a.cfg = s.cfg ∧ a.q = s.q ∧ a.tx = s.tx ∧
    a.inp = nextInputs s ∧ a.wires.push = some (recordWord i) ∧ a.out.errFlags = 0 := by
  obtain ⟨u, hreceive⟩ := hdecodes
  obtain ⟨rx, flag, rfl, -, hquiet, hrequest⟩ := receivePhase_cases hreceive
  obtain ⟨rfl, -⟩ := hquiet nofun
  refine ⟨_, _, hreceive, queuedRequest_showsAndPushes (hrequest i rfl) hp _, ?_⟩
  simp [Outputs.idle]

/-- A legal word is handed on as its instruction (R100). -/
theorem dispatchFetch_legal {s : State} {i : Instr} (hv : s.inp.dpValid = true) (hw : decodeWord s.inp.dpWord = .ok i) :
    dispatchFetch s = (s, some i) := by
  unfold dispatchFetch
  rw [if_pos hv, hw]

/-- A frame just begun is offered from its first byte, which TX_BUF and TX_LEN hold (R220, R224). -/
theorem beginFrame_idx_lt (payload : List Byte) (s : State) :
    (beginFrame payload s).tx.idx.toNat < (beginFrame payload s).tx.len.toNat ∧
    (beginFrame payload s).tx.idx.toNat < (beginFrame payload s).tx.buf.length := by
  constructor
  · exact lt_of_lt_of_le (by decide : 0 < 3) (frameLen_bounds s.inp.txLenDraw (Nat.le_add_left 3 _)).1
  · change 0 < (replyFrame s.cfg payload ++ s.tx.buf.drop (payload.length + 3)).length
    rw [List.length_append, replyFrame_length]
    omega

/-- Under R48(a) and (f) the sender phase goes on: what it emits is in TX_BUF, whether it was under way or begins now. -/
theorem senderPhase_next {s : State} (htx : TxInv s.cfg s.tx) : ∃ t, senderPhase s = .next t := by
  obtain ⟨hstate, hemit, -, hbuf⟩ := htx
  by_cases he : (endSpacing (startProbe s)).tx.state = .emit
  · obtain ⟨hlen, hin⟩ : (endSpacing (startProbe s)).tx.idx.toNat < (endSpacing (startProbe s)).tx.len.toNat ∧
        (endSpacing (startProbe s)).tx.idx.toNat < (endSpacing (startProbe s)).tx.buf.length := by
      rcases endSpacing_startProbe_cases s with ⟨-, -, hbegun⟩ | ⟨-, -, -, hended⟩ | ⟨hsame, -, -⟩
      · rw [hbegun]
        exact beginFrame_idx_lt _ s
      · rw [hended] at he
        cases he
      · rw [hsame] at he ⊢
        obtain ⟨-, hmax, hlt⟩ := hemit he
        exact ⟨hlt, by omega⟩
    exact ⟨_, senderPhase_emit hstate he hlen hin⟩
  · exact ⟨_, senderPhase_quiet hstate he⟩

/-- A chain of phases that all go on is a step outside reset: the converse of `trace_of_step`. -/
theorem Trace.step {s u a b c t : State} {i : Option Instr} (hr : (nextInputs s).rst = false) (T : Trace s u i a b c t) :
    step s = .next t := by
  unfold Machine.step
  rw [if_pos T.valid, if_neg (by simp [hr]), T.receive, andThen_next, T.request, andThen_next, dispatchOnward, T.dispatch,
    andThen_next, backPhases, T.send, andThen_next, T.last]

/-- Settles O21: the request leaves its record to push (`decodesNext_queuedRequest`), the pop makes room for it
(`pushPhase_after_qpop`), and the sender goes on (`senderPhase_next`). Q_COUNT is the number of records. -/
theorem popComesBeforeThePush : Obligations.PopComesBeforeThePush := by
  intro s i x y hinv hr hdecodes hp ⟨hvalid, hword⟩
  obtain ⟨u, a, hreceive, hrequest, hcfg, hqueue, htx, hinp, hpush, hflags⟩ := decodesNext_queuedRequest hdecodes hp
  obtain ⟨b, hpop, hcfgb, htxb, houtb, hcontents, hflagsb⟩ := pushPhase_after_qpop (s := a) (by rw [hcfg]; exact hinv.cfg)
    (by rw [hcfg, hqueue]; exact hinv.queue) hpush x y
  obtain ⟨c, hsend⟩ : ∃ c, senderPhase (countPhase (pushPhase b)) = .next c :=
    senderPhase_next (by simpa [hcfgb, hcfg, htxb, htx] using hinv.tx)
  have hfetch : dispatchFetch a = (a, some (.qpop x y)) := dispatchFetch_legal (by rw [hinp, hvalid]) (by rw [hinp, hword])
  have T : Trace s u (some i) a b c (pwmPhase c) :=
    ⟨hinv.cfg, hreceive, hrequest, by rw [hfetch]; exact hpop, hsend, rfl⟩
  obtain ⟨-, hstatus, hdata⟩ := T.afterStep.response
  rw [houtb, hcfg, hqueue] at hstatus hdata
  rw [hcfg, hqueue, ← T.afterStep.q] at hcontents
  refine ⟨_, T.step hr, ?_, fun w rest hrecords => ?_, fun hnone => ?_⟩
  · rw [T.afterStep.out, hflagsb, hflags]
    rfl
  · rw [hrecords] at hstatus hdata hcontents
    refine ⟨hstatus, hdata, hcontents, BitVec.eq_of_toNat_eq ?_⟩
    rw [← queueContents_length s.cfg, ← queueContents_length s.cfg, hcontents, hrecords]
    simp
  · rw [hnone] at hstatus hdata hcontents
    exact ⟨hstatus, hdata, hcontents⟩

end Sys2Proof.Machine
end

section
/-! The fan PWM unit (43_fan_pwm.md): what SETPWM writes and what GETPWM reads. -/

namespace Sys2Proof.Machine

open Sys2Proof.Claims

/-! ## The duty registers -/

/-- The stored duty as a number, under R6's bound on TIMER_TOP: 16 bits hold it (R180). -/
theorem dutyOf_toNat {top : Nat} (htop : top ≤ 65535) (p : Nat) : (dutyOf top p).toNat = top - p * top / 100 := by
  rw [dutyOf, mapFwd, BitVec.toNat_ofNat]
  omega

/-- A write of DUTY is read back from its own channel (R182). -/
theorem setDuty_duty_same (d : Half) (s : State) (k : Fin Extent.fans) : (setDuty k.val d s).pwm.duty[k] = d := by
  have hread := rdAt_wrAt_same s.pwm.duty k.isLt d 0
  rwa [rdAt_of_lt _ k.isLt] at hread

/-- A write of DUTY leaves every other channel's alone (R182). -/
theorem setDuty_duty_ne {c : Nat} {k : Fin Extent.fans} (h : k.val ≠ c) (d : Half) (s : State) :
    (setDuty c d s).pwm.duty[k] = s.pwm.duty[k] := by
  have hread := rdAt_wrAt_ne s.pwm.duty h.symm d 0
  rwa [rdAt_of_lt _ k.isLt, rdAt_of_lt _ k.isLt] at hread

/-- Every channel's number fits the operand byte A (R110). -/
theorem fan_toNat (c : Fin Extent.fans) : (BitVec.ofNat 8 c.val).toNat = c.val :=
  Nat.mod_eq_of_lt (c.isLt.trans (by decide))

/-! ## SETPWM -/

/-- A conditional error adds its bit, or no bit, to `err_flags`, and changes nothing else (R260). -/
theorem raiseIf_eq (b : Bool) (k : ErrKind) (s : State) :
    raiseIf b k s = { s with out := flagged s.out (if b then k.mask else 0) } := by
  rw [flagged, ← raiseIf_out]
  cases b <;> rfl

/-- The two flags of a failed SETPWM, each under its own condition (R182, R260). -/
theorem raiseIf_setpwmFlags (badChannel badPercent : Bool) (s : State) :
    raiseIf badPercent .pwmOutOfRange (raiseIf badChannel .channelOutOfRange s) = { s with
      out := flagged s.out ((if badChannel then 0x0100 else 0) ||| (if badPercent then 0x0200 else 0)) } := by
  simp only [raiseIf_eq, flagged, BitVec.or_assoc]
  rfl

/-- SETPWM with an operand out of range: a flag for each, FAIL, and nothing else (R182). -/
theorem exec_setpwm_bad {s : State} {c p : Byte} (h : s.cfg.fanCount ≤ c.toNat ∨ 100 < p.toNat) :
    exec (.setpwm c p) s = .next { s with
      out := responded (flagged s.out
        ((if s.cfg.fanCount ≤ c.toNat then 0x0100 else 0) ||| (if 100 < p.toNat then 0x0200 else 0))) .fail 0 } := by
  have hchannel : (!channelActive s.cfg c.toNat) = decide (s.cfg.fanCount ≤ c.toNat) := by
    simp only [channelActive, ← decide_not, not_lt]
  have hbad : (decide (s.cfg.fanCount ≤ c.toNat) || decide (100 < p.toNat)) = true := by simpa using h
  simp only [exec, execSetpwm, hchannel, if_pos hbad, raiseIf_setpwmFlags, decide_eq_true_eq]
  rfl

/-- SETPWM with both operands in range: the inverted mapped duty written, and OK (R182). -/
theorem exec_setpwm_ok {s : State} {c p : Byte} (hc : c.toNat < s.cfg.fanCount) (hp : p.toNat ≤ 100) :
    exec (.setpwm c p) s = .next (respond .ok 0 (setDuty c.toNat (dutyOf s.cfg.timerTop p.toNat) s)) :=
  if_neg (by simp [channelActive, hc, hp])

/-- Settles O23: a bad operand is `exec_setpwm_bad`'s, and two good ones write the one register (`setDuty_duty_same`,
`setDuty_duty_ne`) with a duty that 16 bits hold (`dutyOf_toNat`). -/
theorem setpwmWritesTheInvertedMap : Obligations.SetpwmWritesTheInvertedMap := by
  refine ⟨fun c p => decodeWord_dpWordOf 2 c p (by decide), fun s c p hv => ⟨exec_setpwm_bad, fun hc hp => ?_⟩⟩
  obtain ⟨-, -, -, -, htop, -⟩ := valid_bounds hv
  refine ⟨_, exec_setpwm_ok hc hp, fun k => ⟨fun hk => ?_, fun hk => setDuty_duty_ne hk _ s⟩⟩
  rw [← dutyOf_toNat htop, ← hk]
  exact congrArg BitVec.toNat (setDuty_duty_same _ s k)

/-! ## GETPWM -/

/-- GETPWM of an inactive channel responds 0 (R183). -/
theorem exec_getpwm_inactive {s : State} {c : Byte} (hc : s.cfg.fanCount ≤ c.toNat) (b : Byte) :
    exec (.getpwm c b) s = .next { s with out := responded s.out .ok 0 } :=
  if_neg (by simpa [channelActive] using hc)

/-- GETPWM of an active channel responds with the inverse map of its DUTY, where that is in the map's domain (R183, R181). -/
theorem exec_getpwm_active {s : State} {c : Fin Extent.fans} (hc : c.val < s.cfg.fanCount)
    (hduty : s.pwm.duty[c].toNat ≤ s.cfg.timerTop) (b : Byte) :
    exec (.getpwm (BitVec.ofNat 8 c.val) b) s = .next { s with
      out := responded s.out .ok (BitVec.ofNat 32 (mapInv s.cfg.timerTop s.pwm.duty[c].toNat)) } := by
  have hread : rdAt s.pwm.duty c.val 0 = s.pwm.duty[c] := rdAt_of_lt _ c.isLt 0
  simp only [exec, execGetpwm, fan_toNat, hread, if_pos (channelActive_iff.mpr hc), if_pos hduty]
  rfl

/-- Settles O24: `exec_getpwm_active` with R181's map written out, and `exec_getpwm_inactive`. -/
theorem getpwmReadsTheInverseMap : Obligations.GetpwmReadsTheInverseMap :=
  fun _ _ b => ⟨fun hc hduty => exec_getpwm_active hc hduty b, fun _ hc => exec_getpwm_inactive hc b⟩

end Sys2Proof.Machine
end

section
/-! The tachometer unit (44_fan_tach.md): what a due UPDATE writes and what GETRPM reads. -/

namespace Sys2Proof.Machine

open Sys2Proof.Claims

/-! ## The RPM function and the capture -/

/-- The saturation of R204 keeps a computed RPM within LAST_RPM's 16 bits. -/
theorem rpm_ofNat_toNat (cfg : Config) (n e : Nat) : (BitVec.ofNat 16 (rpm cfg n e)).toNat = rpm cfg n e :=
  Nat.mod_eq_of_lt (Nat.lt_succ_of_le (Nat.min_le_right _ _))

/-- A capture takes a coincident edge for itself exactly when the draw is not NEW (R203). -/
theorem captureConsumes_iff {s : State} {c : Fin Extent.fans} :
    captureConsumes s c = true ↔ s.wires.edge[c] = true ∧ s.inp.captureDraw[c] ≠ .new := by
  simp [captureConsumes]

/-! ## UPDATE -/

/-- A due UPDATE restarts an active channel's count, stores its RPM and keeps what its capture consumed (R202, R203). -/
theorem closeWindow_active {s : State} {c : Fin Extent.fans} (hc : c.val < s.cfg.fanCount) (e : Nat) :
    (closeWindow e s).tach.pulse[c] = 0 ∧
    (closeWindow e s).tach.lastRpm[c] = BitVec.ofNat 16 (rpm s.cfg (capturedPulses s c).toNat e) ∧
    (closeWindow e s).wires.consumed[c] = captureConsumes s c := by
  simp only [closeWindow, perFan_get, channelActive_iff.mpr hc, if_true, Bool.true_and, and_self]

/-- A due UPDATE leaves an inactive channel alone (R202). -/
theorem closeWindow_inactive {s : State} {c : Fin Extent.fans} (hc : s.cfg.fanCount ≤ c.val) (e : Nat) :
    (closeWindow e s).tach.pulse[c] = s.tach.pulse[c] ∧
    (closeWindow e s).tach.lastRpm[c] = s.tach.lastRpm[c] ∧
    (closeWindow e s).wires.consumed[c] = false := by
  have hinactive : channelActive s.cfg c.val = false := by simpa [channelActive] using hc
  simp only [closeWindow, perFan_get, hinactive, Bool.false_eq_true, if_false, Bool.false_and, and_self]

/-- UPDATE before its window has passed responds 0 and changes nothing else (R202). -/
theorem exec_update_early {s : State} (h : elapsed s s.tach.windowStart < s.cfg.rpmWindowMs) (a b : Byte) :
    exec (.update a b) s = .next { s with out := responded s.out .ok 0 } :=
  if_pos h

/-- UPDATE at or after its window's end closes the window and responds 1 (R202). -/
theorem exec_update_due {s : State} (h : s.cfg.rpmWindowMs ≤ elapsed s s.tach.windowStart) (a b : Byte) :
    exec (.update a b) s = .next (respond .ok 1 (closeWindow (elapsed s s.tach.windowStart) s)) :=
  if_neg h.not_gt

/-- Settles O31: an early UPDATE is `exec_update_early`; a due one is `exec_update_due`, read channel by channel with
`closeWindow_active`, where 16 bits hold R204's number (`rpm_ofNat_toNat`), and `closeWindow_inactive`. -/
theorem updateClosesADueWindow : Obligations.UpdateClosesADueWindow := by
  intro s a b hv
  obtain ⟨-, -, -, -, -, -, -, hscale, -, -⟩ := valid_fixed hv
  refine ⟨fun hearly => exec_update_early hearly a b, fun hdue => ?_⟩
  refine ⟨_, _, exec_update_due hdue a b, rfl, rfl, fun c => ⟨fun hc => ?_, fun hc => closeWindow_inactive hc _⟩⟩
  obtain ⟨hpulse, hrpm, hconsumed⟩ := closeWindow_active hc (elapsed s s.tach.windowStart)
  refine ⟨hpulse, hconsumed ▸ captureConsumes_iff, capturedPulses s c, rfl, ?_⟩
  rw [hrpm, rpm_ofNat_toNat, rpm, hscale, elapsed]

/-! ## GETRPM -/

/-- GETRPM of an inactive channel responds 0 (R205). -/
theorem exec_getrpm_inactive {s : State} {c : Byte} (hc : s.cfg.fanCount ≤ c.toNat) (b : Byte) :
    exec (.getrpm c b) s = .next { s with out := responded s.out .ok 0 } :=
  if_neg (by simpa [channelActive] using hc)

/-- GETRPM of an active channel responds with its LAST_RPM, zero-extended (R205). -/
theorem exec_getrpm_active {s : State} {c : Fin Extent.fans} (hc : c.val < s.cfg.fanCount) (b : Byte) :
    exec (.getrpm (BitVec.ofNat 8 c.val) b) s = .next { s with
      out := responded s.out .ok (s.tach.lastRpm[c].setWidth 32) } := by
  have hread : rdAt s.tach.lastRpm c.val 0 = s.tach.lastRpm[c] := rdAt_of_lt _ c.isLt 0
  simp only [exec, execGetrpm, fan_toNat, hread, if_pos (channelActive_iff.mpr hc)]
  rfl

/-- Settles O33: `exec_getrpm_active`, whose zero-extension keeps the number, and `exec_getrpm_inactive`. -/
theorem getrpmReadsTheLastRpm : Obligations.GetrpmReadsTheLastRpm :=
  fun s c b => ⟨
    fun hc => ⟨_, BitVec.toNat_setWidth_of_le (by decide), exec_getrpm_active hc b⟩,
    fun _ hc => exec_getrpm_inactive hc b⟩

end Sys2Proof.Machine
end

section
/-! The frame sender (45_frame_sender.md): how an owed probe reply begins, how a frame's bytes go out, and how the spacing ends. -/

namespace Sys2Proof.Machine

/-! ## `tx_busy` -/

/-- `tx_busy` is 1 outside IDLE (R229). -/
theorem showBusy_busy {s : State} (h : s.tx.state ≠ .idle) : showBusy s = { s with out := { s.out with txBusy := true } } := by
  simp [showBusy, senderBusy, h]

/-- `tx_busy` is 0 in IDLE with no reply owed (R229). -/
theorem showBusy_free {s : State} (h : s.tx.state = .idle) (hp : s.tx.probePending = 0) :
    showBusy s = { s with out := { s.out with txBusy := false } } := by
  rw [showBusy, senderBusy_eq_false.mpr ⟨h, hp⟩]

/-! ## An owed probe reply -/

/-- A byte that is not the frame's last: it is offered, and the index goes on if the UART took it (R226). -/
theorem emitByte_notLast {s : State} (hi : s.tx.idx + 1 ≠ s.tx.len) :
    emitByte s = { s with
      tx := { s.tx with idx := if s.inp.txReady then s.tx.idx + 1 else s.tx.idx }
      out := { s.out with txValid := true, txData := s.tx.buf.getD s.tx.idx.toNat 0 } } := by
  cases h : s.inp.txReady
  · exact emitByte_wait h
  · exact emitByte_more h hi

/-- An owed reply begins in IDLE or SPACE: its frame of 7 bytes is loaded and its first byte offered in the same phase (R224, R225). -/
theorem senderPhase_owed {s : State} (hs : s.tx.state = .idle ∨ s.tx.state = .space) (hp : s.tx.probePending ≠ 0) :
    senderPhase s = .next { s with
      tx := { s.tx with
        buf := replyFrame s.cfg (probePayload s.cfg) ++ s.tx.buf.drop 7, len := 7, state := .emit
        idx := if s.inp.txReady then 1 else 0, probePending := s.tx.probePending - 1 }
      out := { s.out with txValid := true, txData := s.cfg.txStartByte, txBusy := true } } := by
  have hr : s.tx.state ≠ .reserved := by rcases hs with h | h <;> simp [h]
  rcases endSpacing_startProbe_cases s with ⟨-, -, hbegun⟩ | ⟨-, hnone, -⟩ | ⟨-, hnot, -⟩
  · obtain ⟨hlen, hbuf⟩ := beginFrame_idx_lt (probePayload s.cfg) s
    have hlast : (0 : BitVec 5) + 1 ≠ 7 := by decide
    rw [senderPhase_emit hr (by rw [hbegun]; rfl) (by rw [hbegun]; exact hlen) (by rw [hbegun]; exact hbuf), hbegun,
      emitByte_notLast hlast]
    exact congrArg Host.Outcome.next (showBusy_busy nofun)
  · exact absurd hnone hp
  · exact absurd ⟨hs, hp⟩ hnot

/-- PROBE_PENDING does not wrap when a reply is taken from it (R225). -/
theorem probePending_pred_toNat {t : Tx} (h : t.probePending ≠ 0) :
    (t.probePending - 1).toNat + 1 = t.probePending.toNat := by
  bv_omega

/-- Settles O35: `senderPhase_owed`, with TX_START_BYTE = 0xC5. -/
theorem probeReplyBeginsWhenNothingIsEmitted : Obligations.ProbeReplyBeginsWhenNothingIsEmitted := by
  intro s hv hs hp
  obtain ⟨-, hstart, -⟩ := valid_fixed hv
  refine ⟨_, _, senderPhase_owed hs hp, rfl, ?_, rfl, rfl, probePending_pred_toNat hp, rfl, rfl, rfl, hstart, rfl⟩
  simp only [replyFrame, probePayload, hstart]
  rfl

/-! ## An emission under way -/

/-- In EMIT the sender phase is one `emit_step()` and `tx_busy` (R224, R226, R229). -/
theorem senderPhase_underWay {s : State} (he : s.tx.state = .emit) (hi : s.tx.idx.toNat < s.tx.len.toNat)
    (hb : s.tx.idx.toNat < s.tx.buf.length) : senderPhase s = .next (showBusy (emitByte s)) := by
  have hsame := endSpacing_startProbe_emit he
  have h := senderPhase_emit (s := s) (by simp [he])
  rw [hsame] at h
  exact h he hi hb

/-- Below TX_LEN, the taken byte is the last exactly when its index is TX_LEN - 1. -/
theorem idx_succ_eq_len_iff {t : Tx} (h : t.idx.toNat < t.len.toNat) : t.idx + 1 = t.len ↔ t.idx.toNat + 1 = t.len.toNat := by
  rw [← BitVec.toNat_inj, idx_succ_toNat h]

/-- Settles O36: the phase is one `emit_step()` (`senderPhase_underWay`), whose three cases are `emitByte_wait`, `emitByte_more` and
`emitByte_last`. -/
theorem emissionOffersTheByteUntilItIsTaken : Obligations.EmissionOffersTheByteUntilItIsTaken := by
  intro s he hi hb
  have hbyte : s.tx.buf[s.tx.idx.toNat] = s.tx.buf.getD s.tx.idx.toNat 0 := (List.getD_eq_getElem _ _ hb).symm
  rw [senderPhase_underWay he hi hb, hbyte]
  refine ⟨_, s.tx.idx + 1, rfl, idx_succ_toNat hi, fun hwait => ?_, fun htaken hmore => ?_, fun htaken hlast => ?_⟩
  · rw [emitByte_wait hwait, showBusy_busy (by simp [he])]
  · rw [emitByte_more htaken (mt (idx_succ_eq_len_iff hi).mp hmore.ne), showBusy_busy (by simp [he])]
  · rw [emitByte_last htaken ((idx_succ_eq_len_iff hi).mpr hlast)]
    exact congrArg Host.Outcome.next (showBusy_busy nofun)

/-! ## The spacing -/

/-- Before its deadline the spacing goes on (R227). -/
theorem senderPhase_spacing {s : State} (hs : s.tx.state = .space) (hp : s.tx.probePending = 0)
    (he : elapsed s s.tx.spaceStart < s.cfg.spacingMs) :
    senderPhase s = .next { s with out := { s.out with txBusy := true } } := by
  rcases endSpacing_startProbe_cases s with ⟨-, howed, -⟩ | ⟨-, -, hdue, -⟩ | ⟨hsame, -, -⟩
  · exact absurd hp howed
  · exact absurd hdue he.not_ge
  · rw [senderPhase_quiet (by simp [hs]) (by simp [hsame, hs]), hsame, showBusy_busy (by simp [hs])]

/-- From its deadline on the spacing ends (R227). -/
theorem senderPhase_spaced {s : State} (hs : s.tx.state = .space) (hp : s.tx.probePending = 0)
    (he : s.cfg.spacingMs ≤ elapsed s s.tx.spaceStart) :
    senderPhase s = .next { s with tx := { s.tx with state := .idle }, out := { s.out with txBusy := false } } := by
  rcases endSpacing_startProbe_cases s with ⟨-, howed, -⟩ | ⟨-, -, -, hended⟩ | ⟨-, -, hnot⟩
  · exact absurd hp howed
  · rw [senderPhase_quiet (by simp [hs]) (by simp [hended]), hended]
    exact congrArg Host.Outcome.next (showBusy_free rfl hp)
  · exact absurd ⟨hs, he⟩ hnot

/-- Settles O37: `senderPhase_spacing` before the deadline, `senderPhase_spaced` from it on, and `senderPhase_owed` when a reply is
owed. -/
theorem spacingEndsAtItsDeadline : Obligations.SpacingEndsAtItsDeadline :=
  fun _ hs => ⟨senderPhase_spacing hs, senderPhase_spaced hs,
    fun hp => ⟨_, senderPhase_owed (.inr hs) hp, rfl, rfl, probePending_pred_toNat hp⟩⟩

end Sys2Proof.Machine
end

section
/-! Encodings (30_encoding.md): the decoder and the encoder undo each other. -/

namespace Sys2Proof

open Sys2Proof.Machine

/-! ## From an instruction -/

/-- A frame the encoder lays out decodes to the instruction of its command and arguments (R93). -/
theorem decode_frameOf {cfg : Config} (hv : cfg.valid = true) {cmd : Byte} {args : List Byte} {i : Instr}
    (hargs : args.length ≤ 3) (hi : decodeCommand cmd args = .ok i) : decode cfg (.frame (frameOf cfg cmd args)) = .ok i := by
  simp only [decode, decodeFrame_frameOf hv cmd args hargs, hi]

/-- A packet that is a legal dispatch word decodes to that word's instruction (R100). -/
theorem decode_word {cfg : Config} {w : Word} {i : Instr} (hw : decodeWord w = .ok i) : decode cfg (.word w) = .ok i := by
  simp only [decode, hw]

/-- Settles O6, constructor by constructor: a request's frame by `decode_frameOf`, a dispatch word by `decodeWord_dpWordOf`. -/
theorem decodeOfEncodeIsTheInstruction : Obligations.DecodeOfEncodeIsTheInstruction := by
  intro cfg i hv _
  cases i with
  | probeDevice => exact decode_frameOf hv (by simp) rfl
  | getTemp => exact decode_frameOf hv (by simp) rfl
  | getFanRpm => exact decode_frameOf hv (by simp) rfl
  | getFanPwm channel => exact decode_frameOf hv (by simp) rfl
  | setFanPwm channel pwm => exact decode_frameOf hv (by simp) rfl
  | eeReadByte addrH addrL => exact decode_frameOf hv (by simp) rfl
  | eeWriteByte addrH addrL value => exact decode_frameOf hv (by simp) rfl
  | nop a b => exact decode_word (decodeWord_dpWordOf 0 a b (by decide))
  | qpop a b => exact decode_word (decodeWord_dpWordOf 1 a b (by decide))
  | setpwm channel percent => exact decode_word (decodeWord_dpWordOf 2 channel percent (by decide))
  | getpwm channel b => exact decode_word (decodeWord_dpWordOf 3 channel b (by decide))
  | getrpm channel b => exact decode_word (decodeWord_dpWordOf 4 channel b (by decide))
  | update a b => exact decode_word (decodeWord_dpWordOf 5 a b (by decide))
  | send n b => exact decode_word (decodeWord_dpWordOf 6 n b (by decide))

/-! ## From a packet -/

/-- Bytes of a frame's extent from the start byte, in the parts the decoder reads (R90). -/
theorem frame_parts {len cmd : Byte} {rest : List Byte} (hextent : rest.length + 1 = len.toNat) (hmin : 2 ≤ len.toNat) :
    ∃ (args : List Byte) (x : Byte), args.length + 2 = len.toNat ∧
      (0xAA : Byte) :: len :: cmd :: rest = [0xAA, BitVec.ofNat 8 (args.length + 2), cmd] ++ args ++ [x] := by
  have hne : rest ≠ [] := by
    rintro rfl
    simp at hextent
    omega
  obtain ⟨args, x, rfl⟩ := (List.eq_nil_or_concat' rest).resolve_left hne
  simp only [List.length_append, List.length_cons, List.length_nil] at hextent
  refine ⟨args, x, by omega, ?_⟩
  rw [show args.length + 2 = len.toNat by omega, BitVec.ofNat_toNat, BitVec.setWidth_eq]
  rfl

/-- A sequence that decodes is the frame of the command and the arguments it decodes from (R90 to R94). -/
theorem decodeFrame_ok {cfg : Config} (hv : cfg.valid = true) {bytes : List Byte} {i : Instr} (h : decodeFrame cfg bytes = .ok i) :
    ∃ (cmd : Byte) (args : List Byte), bytes = frameOf cfg cmd args ∧ decodeCommand cmd args = .ok i := by
  obtain ⟨hstart, hlo, hhi⟩ := valid_frame hv
  match bytes with
  | [] => cases h
  | [_] => cases h
  | [_, _] => cases h
  | start :: len :: cmd :: rest =>
    have hfull := h
    rw [decodeFrame] at h
    split at h; · cases h
    split at h; · cases h
    split at h; · cases h
    next hs hl hextent =>
    obtain rfl : start = 0xAA := by simpa [hstart] using hs
    obtain ⟨args, x, hargs, hparts⟩ := frame_parts (cmd := cmd) (not_not.mp hextent) (by omega)
    rw [hparts] at hfull ⊢
    rw [decodeFrame_wellShaped hv cmd args x (by omega)] at hfull
    split at hfull
    · next hx => exact ⟨cmd, args, by rw [frameOf_eq hv, hx], hfull⟩
    · cases hfull

/-- A dispatch word that decodes is the encoding of what it decodes to (R100, log 13). -/
theorem encode_of_decodeWord (cfg : Config) {w : Word} {i : Instr} (h : decodeWord w = .ok i) : encode cfg i = .word w := by
  have hreserved : ¬(w.extractLsb' 3 5 ≠ 0 ∨ byteOf w 3 ≠ 0) := fun hr => by
    rw [decodeWord_reservedBits hr] at h
    cases h
  obtain ⟨hlow, hhigh⟩ : w.extractLsb' 3 5 = 0 ∧ byteOf w 3 = 0 := by simpa using hreserved
  have hop : ((w.extractLsb' 0 3).setWidth 8).toNat < 8 := by
    rw [BitVec.toNat_setWidth]
    omega
  have hw := dpWordOf_fields w ((w.extractLsb' 0 3).setWidth 8) hop (by simp) hlow hhigh
  generalize (w.extractLsb' 0 3).setWidth 8 = op at hop hw
  rw [← hw, decodeWord_dpWordOf op _ _ hop] at h
  iterate 7
    split at h
    · next hcode =>
      cases h
      exact congrArg Packet.word (hcode ▸ hw)
  cases h

/-- Settles O7: a frame by `decodeFrame_ok` and the command table (`decodeCommand_ok`), a dispatch word by
`encode_of_decodeWord`. -/
theorem encodeOfDecodedIsThePacket : Obligations.EncodeOfDecodedIsThePacket := by
  intro cfg p i hv h
  cases p with
  | frame bytes =>
    simp only [decode] at h
    split at h
    · next j hj =>
      cases h
      obtain ⟨cmd, args, rfl, hcmd⟩ := decodeFrame_ok hv hj
      exact (decodeCommand_ok cfg hcmd).1
    · cases h
  | word w =>
    simp only [decode] at h
    split at h
    · next j hj =>
      cases h
      exact encode_of_decodeWord cfg hj
    · cases h

/-- Settles O8 by running the decoder on each packet. -/
theorem specWordsDecode : Obligations.SpecWordsDecode := by
  unfold Obligations.SpecWordsDecode
  decide

end Sys2Proof
end

section
/-! CRC8 (40_crc8.md R130 to R132): the loop, its two forms, and what it detects. -/

namespace Sys2Proof.Machine

/-! ## The loop -/

/-- CRC8 with the parameters R130 and R131 fix. -/
theorem crc8_legal {cfg : Config} (hv : cfg.valid = true) (bytes : List Byte) : crc8 cfg bytes = bytes.foldl (crc8Step 0x8C) 0 := by
  obtain ⟨-, -, -, -, -, -, -, -, hpoly, hinit⟩ := valid_fixed hv
  rw [crc8, crc8From_eq_foldl, hpoly, hinit]

/-- Every legal configuration has the reference configuration's CRC8, which can be run. -/
theorem crc8_eq_reference {cfg : Config} (hv : cfg.valid = true) (bytes : List Byte) :
    crc8 cfg bytes = crc8 Config.reference bytes :=
  (crc8_legal hv bytes).trans (crc8_legal (by decide) bytes).symm

/-- Zero bytes leave a zero CRC at zero (R130). -/
theorem foldl_crc8Step_zeros (poly : Byte) (n : Nat) : (List.replicate n 0).foldl (crc8Step poly) 0 = 0 := by
  induction n with
  | zero => rfl
  | succ n ih => rw [List.replicate_succ, List.foldl_cons, crc8Step_self, ih]

/-- Settles O1: the loop is a fold (`crc8_legal`), and zero is its fixed point on zero bytes. The order matters for 01 02. -/
theorem crc8FoldsItsStepOverTheBytes : Obligations.Crc8FoldsItsStepOverTheBytes := by
  intro cfg hv
  refine ⟨?_, fun bytes b => ?_, fun n => ?_, ⟨[1, 2], [2, 1], .swap 2 1 [], ?_⟩, ?_⟩
  · rw [crc8_legal hv]
    rfl
  · rw [crc8_legal hv, crc8_legal hv, List.foldl_append]
    rfl
  · rw [crc8_legal hv]
    exact foldl_crc8Step_zeros 0x8C n
  · rw [crc8_eq_reference hv, crc8_eq_reference hv]
    decide
  · rw [crc8_eq_reference hv]
    decide

/-- Settles O2 by linearity: the bit-serial step is the byte-wide one and a step on equal bytes, which is zero (`crc8Step_self`). -/
theorem crc8ByteWideStepIsEqual : Obligations.Crc8ByteWideStepIsEqual := by
  intro poly crc b
  have hsplit := crc8Step_xor poly (crc ^^^ b) 0#8 b b
  rw [BitVec.xor_assoc, BitVec.xor_self, BitVec.xor_zero, BitVec.zero_xor, crc8Step_self] at hsplit
  exact hsplit.trans BitVec.xor_zero

/-- Settles O3: a byte equal to the running CRC brings it to zero (`crc8Step_self`). -/
theorem crc8ResidueIsZero : Obligations.Crc8ResidueIsZero := by
  intro cfg m
  rw [crc8_append]
  exact crc8Step_self cfg.crcPoly (crc8 cfg m)

/-! ## What it detects -/

/-- Two running CRCs that one data byte makes equal were equal (R131). -/
theorem crc8Step_left_injective {x y b : Byte} (h : crc8Step 0x8C x b = crc8Step 0x8C y b) : x = y := by
  have hzero : crc8Step 0x8C (x ^^^ y) 0 = 0 := by
    have hxor := crc8Step_xor 0x8C x b y b
    rwa [BitVec.xor_self, h, BitVec.xor_self] at hxor
  exact BitVec.xor_eq_zero_iff.mp (crc8Step_zero_data _ hzero)

/-- Two data bytes that lead one running CRC to the same value are equal (R131): they enter it as the CRC does. -/
theorem crc8Step_right_injective {x b b' : Byte} (h : crc8Step 0x8C x b = crc8Step 0x8C x b') : b = b' := by
  have hswap := crc8ByteWideStepIsEqual 0x8C
  rw [hswap, hswap] at h
  exact (BitVec.xor_right_inj x).mp (crc8Step_left_injective h)

/-- Bytes that follow do not make two different CRCs equal. -/
theorem foldl_crc8Step_injective {bytes : List Byte} {x y : Byte}
    (h : bytes.foldl (crc8Step 0x8C) x = bytes.foldl (crc8Step 0x8C) y) : x = y := by
  induction bytes generalizing x y with
  | nil => exact h
  | cons b rest ih => exact crc8Step_left_injective (ih h)

/-- Settles O4: the step tells the two bytes apart (`crc8Step_right_injective`), and no later byte brings the CRCs together. -/
theorem crc8DetectsSingleBitErrors : Obligations.Crc8DetectsSingleBitErrors := by
  intro cfg before after b k hv hk heq
  simp only [crc8_legal hv, List.foldl_append, List.foldl_cons, List.foldl_nil] at heq
  have hbyte : b ^^^ BitVec.twoPow 8 k = b := crc8Step_right_injective (foldl_crc8Step_injective heq)
  have hbit := congrArg (·.getLsbD k) hbyte
  simp [hk] at hbit

/-- The loop is linear over sequences of equal length, from running CRCs that add up. -/
theorem foldl_crc8Step_xor (poly : Byte) {m1 m2 : List Byte} (hlength : m1.length = m2.length) (x y : Byte) :
    (List.zipWith (· ^^^ ·) m1 m2).foldl (crc8Step poly) (x ^^^ y) =
      m1.foldl (crc8Step poly) x ^^^ m2.foldl (crc8Step poly) y := by
  induction m1 generalizing m2 x y with
  | nil =>
    cases m2 with
    | nil => rfl
    | cons b2 m2 => cases hlength
  | cons b1 m1 ih =>
    cases m2 with
    | nil => cases hlength
    | cons b2 m2 =>
      rw [List.zipWith_cons_cons, List.foldl_cons, crc8Step_xor]
      exact ih (Nat.succ.inj hlength) _ _

/-- Settles O5: the loop is linear from CRC_INIT = 0, which is its own sum. -/
theorem crc8IsLinear : Obligations.Crc8IsLinear := by
  intro cfg m1 m2 hv hlength
  simp only [crc8_legal hv]
  exact foldl_crc8Step_xor 0x8C hlength 0 0

end Sys2Proof.Machine
end

section
/-! Whole frames in the receiver (41_frame_receiver.md R154): the bytes of a frame, fed one after another. -/

namespace Sys2Proof.Machine

open Sys2Proof.Claims

/-! ## Feeding -/

/-- The state in which `feedByte` runs the receiver: this byte on the RX port at this time. -/
def offered (bt : Byte × Word) (s : State) : State :=
  { s with msClock := bt.2, inp := { s.inp with rxValid := true, rxData := bt.1 } }

theorem feedByte_eq (bt : Byte × Word) (s : State) : feedByte bt s = receivePhase (offered bt s) := rfl

/-- A byte with which nothing is decoded leaves the rest to be fed to the state it leads to. -/
theorem feedAll_cons_quiet {bt : Byte × Word} {s u : State} (h : feedByte bt s = .next (u, none)) (rest : List (Byte × Word)) :
    feedAll (bt :: rest) s = feedAll rest u := by
  rw [feedAll, h, andThen_next]
  cases feedAll rest u <;> rfl

/-- Feeding one byte decodes what the receiver decodes. -/
theorem feedAll_single (bt : Byte × Word) (s : State) :
    feedAll [bt] s = andThen (feedByte bt s) fun r => .next (r.1, r.2.toList) := by
  simp [feedAll]

/-! ## A frame partly received -/

/-- The configuration, the outputs and every unit but the receiver are as they were. -/
structure OnlyReceives (s t : State) : Prop where
  cfg : t.cfg = s.cfg
  out : t.out = s.out
  q : t.q = s.q
  pwm : t.pwm = s.pwm
  tach : t.tach = s.tach
  tx : t.tx = s.tx

/-- Since `s` the receiver has taken the bytes `got` of a frame that began at `t0`, and `toCome` more are to come (R143). -/
structure Partway (s : State) (t0 : Word) (got : List Byte) (toCome : Nat) (t : State) : Prop where
  state : t.rx.state = .awaitPayload
  start : t.rx.start = t0
  received : receivedBytes t.rx = got
  count : t.rx.count.toNat = got.length
  remaining : t.rx.remaining.toNat = toCome
  only : OnlyReceives s t

/-- RX_BUF begins with the bytes written to its first two places (R26). -/
theorem firstBytes_set (buf : Vector Byte Extent.rxBuf) (b0 b1 : Byte) : ((buf.set 0 b0).set 1 b1).toList.take 2 = [b0, b1] := by
  apply List.ext_getElem
  · simp [Extent.rxBuf]
  · intro k hk _
    match k with
    | 0 => simp
    | 1 => simp
    | k + 2 => simp at hk

/-- The start byte and a length byte in time bring the receiver to the payload (R141, R142). -/
theorem partway_header {s : State} (hv : s.cfg.valid = true) (hidle : s.rx.state = .idle) {len : Byte} (hmin : 2 ≤ len.toNat)
    (hmax : len.toNat ≤ 5) {t0 time : Word} (htime : (time - t0).toNat ≤ s.cfg.stallTimeoutMs) :
    ∃ t, Partway s t0 [0xAA, len] len.toNat t ∧ ∀ rest, feedAll ((0xAA, t0) :: (len, time) :: rest) s = feedAll rest t := by
  obtain ⟨hstart, -, -⟩ := byteInIdleStartsAFrameOnlyOnAA (offered (0xAA, t0) s) hv hidle
  obtain ⟨htaken, -⟩ := lengthByteIsTakenExactlyInRange
    (offered (len, time) { offered (0xAA, t0) s with rx := afterStart s.rx t0 }) hv rfl rfl htime
  obtain ⟨remaining, hremaining, hreceive⟩ := htaken hmin hmax
  refine ⟨_, ?_, fun rest => (feedAll_cons_quiet (hstart rfl rfl) _).trans (feedAll_cons_quiet hreceive rest)⟩
  exact ⟨rfl, rfl, firstBytes_set s.rx.buf 0xAA len, rfl, hremaining, ⟨rfl, rfl, rfl, rfl, rfl, rfl⟩⟩

/-- A payload byte in time is stored; after it the trailer check follows if it was the last to come (R143). -/
theorem partway_byte {s t : State} {t0 : Word} {got : List Byte} {toCome : Nat} (hv : s.cfg.valid = true)
    (hp : Partway s t0 got (toCome + 1) t) (hroom : got.length < 7) {time : Word}
    (htime : (time - t0).toNat ≤ s.cfg.stallTimeoutMs) (b : Byte) :
    ∃ u, receivedBytes u.rx = got ++ [b] ∧ OnlyReceives s u ∧
      (toCome ≠ 0 → Partway s t0 (got ++ [b]) toCome u ∧ feedByte (b, time) t = .next (u, none)) ∧
      (toCome = 0 → feedByte (b, time) t = rxTrailer u) := by
  obtain ⟨hstate, hstart, hreceived, hcount, hremaining, hcfg, hout, hq, hpwm, htach, htx⟩ := hp
  have hc : t.rx.count.toNat < 7 := hcount ▸ hroom
  have htaken : feedByte (b, time) t =
      if t.rx.remaining = 1 then rxTrailer (storeByte b (offered (b, time) t))
      else .next (storeByte b (offered (b, time) t), none) := by
    rw [feedByte_eq, receivePhase_byte (by simp [offered, hstate]) rfl, stallCheck_inTime,
      rxByte_awaitPayload (s := offered (b, time) t) hstate]
    · exact rxPayload_room (s := offered (b, time) t) (hcfg ▸ hv) hc b
    · simpa only [elapsed, offered, hstart, hcfg] using htime
  have hlast : t.rx.remaining = 1 ↔ toCome = 0 := by
    rw [← BitVec.toNat_inj, hremaining]
    simp
  have hgot : receivedBytes (storeByte b (offered (b, time) t)).rx = got ++ [b] := by
    rw [receivedBytes_storeByte _ (offered (b, time) t) hc, ← hreceived]
    rfl
  have honly : OnlyReceives s (storeByte b (offered (b, time) t)) := ⟨hcfg, hout, hq, hpwm, htach, htx⟩
  refine ⟨_, hgot, honly, fun hmore => ⟨⟨hstate, hstart, hgot, ?_, ?_, honly⟩, ?_⟩, fun hdone => ?_⟩
  · change (t.rx.count + 1).toNat = _
    rw [List.length_append, ← hcount]
    simp only [List.length_cons, List.length_nil]
    bv_omega
  · change (t.rx.remaining - 1).toNat = toCome
    bv_omega
  · rw [htaken, if_neg (mt hlast.mp hmore)]
  · rw [htaken, if_pos (hlast.mpr hdone)]

/-- Payload bytes in time are stored one after another, up to the trailer (R143). -/
theorem partway_payload {s t : State} {t0 : Word} {got payload : List Byte} {times : List Word} (hv : s.cfg.valid = true)
    (hp : Partway s t0 got (payload.length + 1) t) (hroom : got.length + payload.length ≤ 6)
    (hlength : payload.length = times.length) (htimes : InTime s t0 times) :
    ∃ u, Partway s t0 (got ++ payload) 1 u ∧ ∀ rest, feedAll (payload.zip times ++ rest) t = feedAll rest u := by
  induction payload generalizing t got times with
  | nil => exact ⟨t, by simpa using hp, fun _ => rfl⟩
  | cons b payload ih =>
    cases times with
    | nil => cases hlength
    | cons time times =>
      rw [List.length_cons] at hp hroom
      have htime := htimes time (List.mem_cons_self ..)
      obtain ⟨u, -, -, hmore, -⟩ := partway_byte hv hp (by omega) htime b
      obtain ⟨hpu, hfed⟩ := hmore (Nat.succ_ne_zero _)
      obtain ⟨v, hpv, hrest⟩ := ih hpu (by rw [List.length_append]; simp only [List.length_cons, List.length_nil]; omega)
        (Nat.succ.inj hlength) (fun x hx => htimes x (List.mem_cons_of_mem _ hx))
      refine ⟨v, by rwa [List.append_cons], fun rest => ?_⟩
      rw [List.zip_cons_cons, List.cons_append, feedAll_cons_quiet hfed, hrest]

/-! ## A whole frame -/

/-- The bytes of a frame, in time, reach the trailer check, which finds them all in RX_BUF (R143, R154). -/
theorem feedAll_frame {s : State} (hv : s.cfg.valid = true) (hidle : s.rx.state = .idle) (cmd : Byte) {args : List Byte}
    (hargs : args.length ≤ 3) (trailer : Byte) {t0 : Word} {times : List Word} (hlength : times.length = args.length + 3)
    (htimes : InTime s t0 times) :
    ∃ v, receivedBytes v.rx = frameBody cmd args ++ [trailer] ∧ OnlyReceives s v ∧
      feedAll ((frameBody cmd args ++ [trailer]).zip (t0 :: times)) s =
        andThen (rxTrailer v) fun r => .next (r.1, r.2.toList) := by
  obtain ⟨times, last, rfl⟩ := (List.eq_nil_or_concat' times).resolve_left (by rintro rfl; cases hlength)
  obtain ⟨time, times, rfl⟩ : ∃ time rest, times = time :: rest := by
    cases times with
    | nil => cases hlength
    | cons time rest => exact ⟨time, rest, rfl⟩
  have hpayload : (cmd :: args).length = times.length := by
    simp only [List.length_append, List.length_cons, List.length_nil] at hlength ⊢
    omega
  have hlen : (BitVec.ofNat 8 (args.length + 2)).toNat = args.length + 2 := by
    rw [BitVec.toNat_ofNat]
    omega
  obtain ⟨t, hpt, hheader⟩ := partway_header hv hidle (len := BitVec.ofNat 8 (args.length + 2)) (by omega) (by omega)
    (htimes time (by simp))
  rw [hlen] at hpt
  obtain ⟨u, hpu, hfed⟩ := partway_payload hv (payload := cmd :: args) hpt
    (by simp only [List.length_cons, List.length_nil]; omega) hpayload (fun x hx => htimes x (by simp [hx]))
  obtain ⟨v, hreceived, honly, -, hlast⟩ := partway_byte hv hpu
    (by simp only [List.length_append, List.length_cons, List.length_nil]; omega) (htimes last (by simp)) trailer
  refine ⟨v, hreceived, honly, ?_⟩
  have hzip : (frameBody cmd args ++ [trailer]).zip (t0 :: (time :: times ++ [last])) =
      (0xAA, t0) :: (BitVec.ofNat 8 (args.length + 2), time) :: ((cmd :: args).zip times ++ [(trailer, last)]) :=
    congrArg (fun l => (0xAA, t0) :: (BitVec.ofNat 8 (args.length + 2), time) :: l) (List.zip_append hpayload)
  rw [hzip, hheader, hfed, feedAll_single, hlast rfl]

/-- A request's frame, in the parts its bytes have (R90). -/
theorem encode_frame_parts {cfg : Config} (hv : cfg.valid = true) {i : Instr} {bytes : List Byte}
    (h : encode cfg i = .frame bytes) : ∃ (cmd : Byte) (args : List Byte), args.length ≤ 3 ∧ decodeFrame cfg bytes = .ok i ∧
      bytes = frameBody cmd args ++ [crc8 cfg (frameBody cmd args)] := by
  have hdecode := decodeOfEncodeIsTheInstruction cfg i hv (by cases i <;> rfl)
  rw [h, decode] at hdecode
  split at hdecode
  · next j hj =>
    cases hdecode
    obtain ⟨cmd, args, hbytes, hcmd⟩ := decodeFrame_ok hv hj
    exact ⟨cmd, args, (decodeCommand_ok cfg hcmd).2.2, hj, hbytes.trans (frameOf_eq hv cmd args)⟩
  · cases hdecode

/-- Settles O15: the bytes reach the trailer check (`feedAll_frame`), which decodes them (`rxTrailer_decoded`). -/
theorem feedingAValidFrameDecodesItOnce : Obligations.FeedingAValidFrameDecodesItOnce := by
  intro s i bytes t0 times hv hidle hencode hlength htimes
  obtain ⟨cmd, args, hargs, hdecode, rfl⟩ := encode_frame_parts hv hencode
  obtain ⟨v, hreceived, ⟨hcfg, hout, hq, hpwm, htach, htx⟩, hfed⟩ := feedAll_frame hv hidle cmd hargs
    (crc8 s.cfg (frameBody cmd args)) (by simpa [frameBody] using hlength.symm) htimes
  refine ⟨toIdle v, ?_, rfl, hout, hq, hpwm, htach, htx⟩
  rw [hfed, rxTrailer_decoded (by rw [hcfg, hreceived]; exact hdecode)]
  rfl

/-- Settles O16: the bytes reach the trailer check (`feedAll_frame`), which drops them for their trailer (`rxTrailer_dropped`). -/
theorem feedingAWrongTrailerDecodesNothing : Obligations.FeedingAWrongTrailerDecodesNothing := by
  intro s i bytes trailer t0 times hv hidle hencode hlength htimes wrong hwrong
  obtain ⟨cmd, args, hargs, -, hbytes⟩ := encode_frame_parts hv hencode
  obtain ⟨rfl, htrailer⟩ := List.append_inj' hbytes rfl
  obtain rfl : trailer = crc8 s.cfg (frameBody cmd args) := List.singleton_injective htrailer
  obtain ⟨v, hreceived, ⟨hcfg, hout, hq, -, -, htx⟩, hfed⟩ := feedAll_frame hv hidle cmd hargs wrong
    (by simpa [frameBody] using hlength.symm) htimes
  have hdecode : decodeFrame v.cfg (receivedBytes v.rx) = .error .crcMismatch := by
    rw [hcfg, hreceived]
    exact (decodeFrame_wellShaped hv cmd args wrong hargs).trans (if_neg hwrong)
  refine ⟨toIdle (raise .crcMismatch v), ?_, rfl, ?_, hq, htx⟩
  · rw [hfed, rxTrailer_dropped hdecode rfl]
    rfl
  · rw [← hout]
    rfl

/-! ## An owed reply -/

/-- Settles O18: at saturation `probeRequest_full`, else `probeRequest_room`; the record is 1. -/
theorem probeDeviceOwesOneMoreReply : Obligations.ProbeDeviceOwesOneMoreReply := by
  intro s
  refine ⟨fun hfull => ?_, fun hroom => ⟨oneMorePending s.inp.probePendingDraw s.tx.probePending, ?_, oneMorePending_toNat _⟩⟩
  · exact congrArg Host.Outcome.next (probeRequest_full (s := announce (recordOf 0x01 0 0 0) s) hfull)
  · exact congrArg Host.Outcome.next (probeRequest_room (s := announce (recordOf 0x01 0 0 0) s) hroom)

end Sys2Proof.Machine
end

section
/-! What every proof about a whole step uses: a reset step, and what a step keeps of its configuration, its inputs and its clock
(00_scope.md R9, R10, 10_state.md R22). -/

namespace Sys2Proof.Machine

open Sys2Proof.Claims

/-! ## A reset step -/

/-- A step with `rst` is phase P0 (R10, R280). -/
theorem step_reset {s : State} (hv : s.cfg.valid = true) (hr : (nextInputs s).rst = true) :
    step s = .next (resetPhase (beginStep s)) := by
  unfold step
  rw [if_pos hv, if_pos hr]

/-- So every step with `rst` that goes on ends as phase P0 does. -/
theorem eq_resetPhase_of_step {s t : State} (hr : (nextInputs s).rst = true) (h : step s = .next t) :
    t = resetPhase (beginStep s) :=
  Host.Outcome.next.inj (h.symm.trans (step_reset (step_cases h).1 hr))

/-! ## The configuration and the inputs -/

/-- The phases up to the dispatch operation keep the configuration (R46). -/
theorem Trace.dispatched_cfg {s u a b c t : State} {i : Option Instr} (T : Trace s u i a b c t) : b.cfg = s.cfg :=
  T.untouched.cfg.trans T.afterRequest.cfg

/-- The phases up to the dispatch operation keep the inputs sampled (R9). -/
theorem Trace.dispatched_inp {s u a b c t : State} {i : Option Instr} (T : Trace s u i a b c t) : b.inp = nextInputs s :=
  T.untouched.inp.trans T.afterRequest.inp

/-- Every step keeps the inputs it sampled in `inp` (R9, log 5). -/
theorem step_inp {s t : State} (h : step s = .next t) : t.inp = nextInputs s := by
  obtain ⟨hvalid, ⟨-, rfl⟩ | ⟨-, u, i, a, b, c, hreceive, hrequest, hdispatch, hsend, hlast⟩⟩ := step_cases h
  · rfl
  · have T : Trace s u i a b c t := ⟨hvalid, hreceive, hrequest, hdispatch, hsend, hlast⟩
    exact T.afterStep.inp.trans T.dispatched_inp

/-- An active channel's number is one of a physical channel (R6, R31). -/
theorem exists_fan {cfg : Config} (hv : cfg.valid = true) {c : Byte} (hc : c.toNat < cfg.fanCount) :
    ∃ k : Fin Extent.fans, c = BitVec.ofNat 8 k.val ∧ k.val < cfg.fanCount := by
  obtain ⟨hfans, -⟩ := valid_bounds hv
  exact ⟨⟨c.toNat, hc.trans_le hfans⟩, by simp, hc⟩

/-! ## The clock and the dispatched instruction of a step -/

/-- After phase P1 nothing writes MS_CLOCK (R22). -/
theorem Trace.msClock {s u a b c t : State} {i : Option Instr} (T : Trace s u i a b c t) :
    a.msClock = (frontPhases s).msClock ∧ t.msClock = a.msClock :=
  ⟨T.afterRequest.msClock, T.afterStep.msClock.trans T.untouched.msClock⟩

/-- Outside reset a step counts its tick (R22): phase P1 does, and no later phase writes the clock. -/
theorem step_msClock {s t : State} (hr : (nextInputs s).rst = false) (h : step s = .next t) :
    t.msClock = if (nextInputs s).tick1ms then s.msClock + 1 else s.msClock := by
  obtain ⟨u, i, a, b, c, T⟩ := trace_of_step hr h
  rw [T.msClock.2, T.msClock.1, frontPhases_msClock]

/-- Settles O48 by `step_msClock`, the sum taken modulo 2^32. -/
theorem clockAdvancesExactlyOnTheTick : Obligations.ClockAdvancesExactlyOnTheTick := by
  intro s t hr h
  rw [step_msClock hr h]
  refine ⟨fun htick => ?_, fun htick => ?_⟩
  · rw [if_pos htick, BitVec.toNat_add]
    rfl
  · rw [if_neg (by simp [htick])]

/-- The instruction of the dispatch word is the one phase P4 runs (R100). -/
theorem Trace.exec_dispatched {s u a b c t : State} {i : Option Instr} (T : Trace s u i a b c t) {j : Instr}
    (hj : DispatchesNext s j) : exec j a = .next b := by
  have hfetch : dispatchFetch a = (a, some j) :=
    dispatchFetch_legal (by rw [T.afterRequest.inp, hj.1]) (by rw [T.afterRequest.inp, hj.2])
  have hrun := T.dispatch
  rw [hfetch] at hrun
  exact hrun

end Sys2Proof.Machine
end

section
/-! The PWM unit over time (43_fan_pwm.md R184 to R188): the round trip of a percentage, the counter, the pins, and who writes DUTY. -/

namespace Sys2Proof.Machine

open Sys2Proof.Claims Sys2Proof.Safety

/-! ## The round trip -/

/-- The inverse map of a stored duty, with the two inversions undone (R180, R181). -/
theorem mapInv_stored {top p : Nat} (hp : p ≤ 100) : mapInv top (top - p * top / 100) = p * top / 100 * 100 / top := by
  have hq : p * top / 100 ≤ top := Nat.div_le_of_le_mul (Nat.mul_le_mul_right top hp)
  rw [mapInv, Nat.sub_sub_self hq]

/-- Both truncations together lose at most one percent, and none where the first loses nothing (R184). -/
theorem mapInv_stored_bounds {top p : Nat} (htop : 100 ≤ top) (hp : p ≤ 100) :
    p ≤ mapInv top (top - p * top / 100) + 1 ∧ mapInv top (top - p * top / 100) ≤ p ∧
    (p * top % 100 = 0 → mapInv top (top - p * top / 100) = p) := by
  have hpos : 0 < top := by omega
  have hfloor : p * top / 100 * 100 ≤ p * top := Nat.div_mul_le_self _ _
  rw [mapInv_stored hp]
  refine ⟨?_, Nat.div_le_of_le_mul (by rw [Nat.mul_comm top]; exact hfloor), fun hexact => ?_⟩
  · have hceil := Nat.lt_mul_div_succ (p * top / 100 * 100) hpos
    have hlt : top * p < top * (p * top / 100 * 100 / top + 1 + 1) := by
      rw [Nat.mul_comm top p, Nat.mul_succ top (p * top / 100 * 100 / top + 1)]
      omega
    exact Nat.lt_succ_iff.mp (Nat.lt_of_mul_lt_mul_left hlt)
  · rw [Nat.div_mul_cancel (Nat.dvd_of_mod_eq_zero hexact), Nat.mul_div_cancel _ hpos]

/-- Settles O25: SETPWM writes the duty (`exec_setpwm_ok`), GETPWM reads it back (`exec_getpwm_active`), and the two maps are within
one (`mapInv_stored_bounds`). -/
theorem pwmRoundTripIsWithinOne : Obligations.PwmRoundTripIsWithinOne := by
  intro s c p b hv hc hp
  obtain ⟨-, -, -, hlow, hhigh, -⟩ := valid_bounds hv
  obtain ⟨k, rfl, hk⟩ := exists_fan hv hc
  have hwritten : (setDuty (BitVec.ofNat 8 k.val).toNat (dutyOf s.cfg.timerTop p.toNat) s).pwm.duty[k].toNat =
      s.cfg.timerTop - p.toNat * s.cfg.timerTop / 100 := by
    rw [fan_toNat, setDuty_duty_same, dutyOf_toNat hhigh]
  obtain ⟨hle, hge, hexact⟩ := mapInv_stored_bounds hlow hp
  refine ⟨_, _, exec_setpwm_ok hc hp, exec_getpwm_active (by exact hk) ?_ b, ?_⟩
  · exact hwritten.le.trans (Nat.sub_le _ _)
  · have hdata : (BitVec.ofNat 32 (mapInv s.cfg.timerTop (s.cfg.timerTop - p.toNat * s.cfg.timerTop / 100))).toNat =
        mapInv s.cfg.timerTop (s.cfg.timerTop - p.toNat * s.cfg.timerTop / 100) := by
      rw [BitVec.toNat_ofNat]
      omega
    simp only [responded, respond_pwm, respond_cfg, setDuty_cfg, hwritten, hdata]
    exact ⟨hle, hge, hexact⟩

/-! ## The counter -/

/-- Counting up to TIMER_TOP turns and loads (R185, R186). -/
theorem pwmCount_turnsDown {cfg : Config} {p : Pwm} (hdir : p.dir = .up) (hcnt : p.cnt.toNat + 1 = cfg.timerTop) :
    pwmCount cfg p = loadActive cfg { p with cnt := BitVec.ofNat 16 cfg.timerTop, dir := .down } := by
  unfold pwmCount
  rw [hdir]
  exact if_pos (by omega)

/-- Counting up below TIMER_TOP (R186). -/
theorem pwmCount_up {cfg : Config} {p : Pwm} (hdir : p.dir = .up) (hcnt : p.cnt.toNat + 1 < cfg.timerTop) :
    pwmCount cfg p = { p with cnt := p.cnt + 1 } := by
  unfold pwmCount
  rw [hdir]
  exact if_neg (by omega)

/-- Counting down to 0 turns (R186). -/
theorem pwmCount_turnsUp {cfg : Config} {p : Pwm} (hdir : p.dir = .down) (hcnt : p.cnt.toNat = 1) :
    pwmCount cfg p = { p with cnt := 0, dir := .up } := by
  unfold pwmCount
  rw [hdir]
  exact if_pos (BitVec.eq_of_toNat_eq hcnt)

/-- Counting down above 1 (R186). -/
theorem pwmCount_down {cfg : Config} {p : Pwm} (hdir : p.dir = .down) (hcnt : p.cnt.toNat ≠ 1) :
    pwmCount cfg p = { p with cnt := p.cnt - 1 } := by
  unfold pwmCount
  rw [hdir]
  exact if_neg (fun h => hcnt (by simp [h]))

/-- The count never writes DUTY (R31, R186). -/
theorem pwmCount_duty (cfg : Config) (p : Pwm) : (pwmCount cfg p).duty = p.duty := by
  unfold pwmCount loadActive
  split <;> split <;> rfl

/-- Settles O26, one case of the count at a time. -/
theorem pwmCounterRunsUpAndDown : Obligations.PwmCounterRunsUpAndDown := by
  intro s hv ⟨_, hrange⟩
  obtain ⟨-, -, -, -, htop, -⟩ := valid_bounds hv
  refine ⟨pwmCount s.cfg s.pwm, rfl, pwmCount_duty _ _, fun hdir hcnt => ?_, fun hdir hcnt => ?_, fun hdir hcnt => ?_,
    fun hdir hcnt => ?_⟩
  · rw [pwmCount_turnsDown hdir hcnt]
    refine ⟨?_, rfl, fun c => ?_⟩
    · exact Nat.mod_eq_of_lt (Nat.lt_succ_of_le htop)
    · simp only [loadActive, perFan_get, channelActive_iff]
  · rw [hdir] at hrange
    rw [pwmCount_up hdir (by omega)]
    exact ⟨by bv_omega, hdir, rfl⟩
  · rw [pwmCount_turnsUp hdir hcnt]
    exact ⟨rfl, rfl, rfl⟩
  · rw [hdir] at hrange
    rw [pwmCount_down hdir hcnt]
    exact ⟨by bv_omega, hdir, rfl⟩

/-! ## The on-time of one period -/

/-- The compare on the way up (R187). -/
theorem pinHigh_up {p : Pwm} (hdir : p.dir = .up) (d : Half) : pinHigh p d = decide (p.cnt.toNat < d.toNat) := by
  unfold pinHigh
  rw [hdir]

/-- The compare on the way down, where the count is not 0 (R187). -/
theorem pinHigh_down {p : Pwm} (hdir : p.dir = .down) (hcnt : 1 ≤ p.cnt.toNat) (d : Half) :
    pinHigh p d = decide (p.cnt.toNat ≤ d.toNat) := by
  unfold pinHigh
  rw [hdir]
  simp [hcnt]

/-- The pin's high steps add up over consecutive stretches. -/
theorem highSteps_add (cfg : Config) (c : Fin Extent.fans) (m n : Nat) (p : Pwm) :
    highSteps cfg c (m + n) p = highSteps cfg c m p + highSteps cfg c n (countSteps cfg m p) := by
  induction m generalizing p with
  | zero => simp [highSteps, countSteps]
  | succ m ih =>
    rw [Nat.add_right_comm, highSteps, ih, highSteps, countSteps, Nat.add_assoc]

theorem countSteps_add (cfg : Config) (m n : Nat) (p : Pwm) : countSteps cfg (m + n) p = countSteps cfg n (countSteps cfg m p) := by
  induction m generalizing p with
  | zero => rw [Nat.zero_add, countSteps]
  | succ m ih => rw [Nat.add_right_comm, countSteps, ih, countSteps]

/-- Going down from `n` to 0, the pin is high in the steps that find the count at or below the compare value (R187). -/
theorem highSteps_down {cfg : Config} {c : Fin Extent.fans} {n : Nat} {p : Pwm} (hdir : p.dir = .down) (hcnt : p.cnt.toNat = n + 1) :
    highSteps cfg c (n + 1) p = min (n + 1) p.dutyActive[c].toNat ∧
    countSteps cfg (n + 1) p = { p with cnt := 0, dir := .up } := by
  induction n generalizing p with
  | zero =>
    rw [highSteps, countSteps, pinHigh_down hdir (by omega), pwmCount_turnsUp hdir hcnt]
    refine ⟨?_, rfl⟩
    simp only [highSteps, decide_eq_true_eq]
    split <;> omega
  | succ n ih =>
    have hnext : (p.cnt - 1).toNat = n + 1 := by bv_omega
    obtain ⟨hhigh, hcount⟩ := ih (p := { p with cnt := p.cnt - 1 }) hdir hnext
    rw [highSteps, countSteps, pinHigh_down hdir (by omega), pwmCount_down hdir (by omega), hhigh, hcount]
    refine ⟨?_, rfl⟩
    simp only [decide_eq_true_eq]
    split <;> omega

/-- Going up for `n` counts to TIMER_TOP, the pin is high in the steps that find the count below the compare value (R187). -/
theorem highSteps_up {cfg : Config} {c : Fin Extent.fans} (htop : cfg.timerTop ≤ 65535) {n : Nat} {p : Pwm} (hdir : p.dir = .up)
    (hcnt : p.cnt.toNat + (n + 1) = cfg.timerTop) (hduty : p.dutyActive[c].toNat ≤ cfg.timerTop) :
    highSteps cfg c (n + 1) p = p.dutyActive[c].toNat - p.cnt.toNat ∧
    (countSteps cfg (n + 1) p).dir = .down ∧ (countSteps cfg (n + 1) p).cnt.toNat = cfg.timerTop := by
  induction n generalizing p with
  | zero =>
    rw [highSteps, countSteps, pinHigh_up hdir, pwmCount_turnsDown hdir hcnt]
    refine ⟨?_, rfl, Nat.mod_eq_of_lt (Nat.lt_succ_of_le htop)⟩
    simp only [highSteps, decide_eq_true_eq]
    split <;> omega
  | succ n ih =>
    have hnext : (p.cnt + 1).toNat = p.cnt.toNat + 1 := by bv_omega
    obtain ⟨hhigh, hturned⟩ := ih (p := { p with cnt := p.cnt + 1 }) hdir (by simp only [hnext]; omega) hduty
    rw [highSteps, countSteps, pinHigh_up hdir, pwmCount_up hdir (by omega), hhigh]
    refine ⟨?_, hturned⟩
    simp only [hnext, decide_eq_true_eq]
    split <;> omega

/-- Settles O28: D high steps on the way down (`highSteps_down`), D on the way up (`highSteps_up`). -/
theorem pinIsHighForTwiceTheDuty : Obligations.PinIsHighForTwiceTheDuty := by
  intro cfg p c hv hc hdir hcnt hduty
  obtain ⟨-, -, -, hlow, htop, -⟩ := valid_bounds hv
  obtain ⟨n, hn⟩ : ∃ n, cfg.timerTop = n + 1 := ⟨cfg.timerTop - 1, by omega⟩
  obtain ⟨hdown, hbottom⟩ := highSteps_down (cfg := cfg) (c := c) hdir (hcnt.trans hn)
  obtain ⟨hup, hturned⟩ := highSteps_up (n := n) (p := { p with cnt := 0, dir := .up }) htop rfl
    (hn ▸ Nat.zero_add _) hduty
  have hperiod : 2 * cfg.timerTop = (n + 1) + (n + 1) := by omega
  rw [hperiod, highSteps_add, countSteps_add cfg (n + 1) (n + 1), hdown, hbottom, hup]
  refine ⟨?_, hturned⟩
  change min (n + 1) p.dutyActive[c].toNat + (p.dutyActive[c].toNat - 0) = 2 * p.dutyActive[c].toNat
  omega

/-! ## The pins of a step -/

/-- Nothing before the count writes the compare values, the count or its direction. -/
theorem Trace.waveform {s u a b c t : State} {i : Option Instr} (T : Trace s u i a b c t) :
    b.pwm.dutyActive = s.pwm.dutyActive ∧ b.pwm.cnt = s.pwm.cnt ∧ b.pwm.dir = s.pwm.dir := by
  rw [← T.afterRequest.pwm]
  exact ⟨T.untouched.dutyActive, T.untouched.cnt, T.untouched.dir⟩

theorem pinHigh_iff {p : Pwm} {d : Half} : pinHigh p d = true ↔
    (p.dir = .up ∧ p.cnt.toNat < d.toNat) ∨ (p.dir = .down ∧ p.cnt.toNat ≤ d.toNat ∧ 1 ≤ p.cnt.toNat) := by
  unfold pinHigh
  cases p.dir <;> simp

theorem pinLevels_active {cfg : Config} {c : Fin Extent.fans} (hc : c.val < cfg.fanCount) (p : Pwm) (draw : PerFan Bool) :
    (pinLevels cfg p draw)[c] = pinHigh p p.dutyActive[c] := by
  rw [pinLevels, perFan_get, if_pos (channelActive_iff.mpr hc)]

theorem pinLevels_inactive {cfg : Config} {c : Fin Extent.fans} (hc : cfg.fanCount ≤ c.val) (p : Pwm) (draw : PerFan Bool) :
    (pinLevels cfg p draw)[c] = draw[c] := by
  rw [pinLevels, perFan_get, if_neg (fun h => absurd (channelActive_iff.mp h) hc.not_gt)]

/-- Settles O27: the pins are `pinLevels` of registers that no phase before has written (`Trace.waveform`). -/
theorem pinComparesTheActiveDuty : Obligations.PinComparesTheActiveDuty := by
  intro s t c hr h
  obtain ⟨u, i, a, b, d, T⟩ := trace_of_step hr h
  obtain ⟨hactive, hcnt, hdir⟩ := T.waveform
  have hpins : t.out.pwmPin = pinLevels s.cfg b.pwm (nextInputs s).pinDraw := by
    rw [T.afterStep.out, T.dispatched_cfg, T.dispatched_inp]
  refine ⟨fun hc => ?_, fun hc => ?_⟩
  · rw [hpins, pinLevels_active hc, pinHigh_iff, hactive, hcnt, hdir]
  · rw [hpins, pinLevels_inactive hc]

/-! ## Who writes DUTY -/

/-- Of the dispatch operations only SETPWM writes the PWM unit (R31). -/
theorem PortEffect.pwm {s t : State} {i : Instr} (h : PortEffect s i t) (hi : ∀ c p, i ≠ .setpwm c p) : t.pwm = s.pwm := by
  cases h with
  | answer => rfl
  | sendRefused => rfl
  | setpwmFailed c p => exact absurd rfl (hi c p)
  | popped => rfl
  | dutySet c p => exact absurd rfl (hi c p)
  | windowClosed => rfl
  | sent => rfl

/-- Settles O29: without a SETPWM the dispatch port leaves the PWM unit alone (`PortEffect.pwm`), and the count leaves DUTY alone
(`pwmCount_duty`). -/
theorem onlySetpwmWritesTheDuty : Obligations.OnlySetpwmWritesTheDuty := by
  intro s t hr hnone h
  obtain ⟨u, i, a, b, c, T⟩ := trace_of_step hr h
  have hport : b.pwm = a.pwm := by
    rcases T.dispatched with ⟨-, rfl⟩ | ⟨hvalid, j, hword, -, heffect⟩ | ⟨-, -, rfl⟩
    · rfl
    · exact heffect.pwm fun c p hj => hnone ⟨c, p, hvalid, hj ▸ hword⟩
    · rfl
  rw [T.afterStep.pwm, pwmCount_duty, hport, T.afterRequest.pwm]

end Sys2Proof.Machine
end

section
/-! The tachometer over a whole step (44_fan_tach.md R200 to R203): which edges a step counts, and where. -/

namespace Sys2Proof.Machine

open Sys2Proof.Claims

/-! ## The count of a step -/

/-- Phase P6 counts an edge that no capture consumed (R201). -/
theorem Trace.pulse {s u a b d t : State} {i : Option Instr} (T : Trace s u i a b d t) (c : Fin Extent.fans) :
    t.tach.pulse[c] = if (frontPhases s).wires.edge[c] && !b.wires.consumed[c] then b.tach.pulse[c] + 1 else b.tach.pulse[c] := by
  rw [T.afterStep.tach, ← T.afterRequest.edge, ← T.untouched.edge]
  exact perFan_get _ c

/-- The edges of phase P2 (R200). -/
theorem edge_iff_falling {s : State} {c : Fin Extent.fans} : (frontPhases s).wires.edge[c] = true ↔ FallingEdgeNext s c :=
  frontPhases_edge s c

/-- A dispatch operation that closes no window leaves the tachometer alone. -/
theorem PortEffect.tach {s t : State} {i : Instr} (h : PortEffect s i t)
    (hi : ∀ a b, i = .update a b → elapsed s s.tach.windowStart < s.cfg.rpmWindowMs) :
    t.tach = s.tach ∧ t.wires.consumed = s.wires.consumed := by
  cases h with
  | answer => exact ⟨rfl, rfl⟩
  | sendRefused => exact ⟨rfl, rfl⟩
  | setpwmFailed => simp
  | popped => exact ⟨rfl, rfl⟩
  | dutySet => exact ⟨rfl, rfl⟩
  | windowClosed a b hdue => exact absurd hdue (hi a b rfl).not_ge
  | sent => exact ⟨rfl, rfl⟩

/-- Settles O30: the dispatch port leaves the tachometer alone (`PortEffect.tach`), nothing is consumed, and phase P6 counts the
edges of phase P2 (`Trace.pulse`). -/
theorem pulsesCountFallingEdges : Obligations.PulsesCountFallingEdges := by
  intro s t c hr h hearly
  obtain ⟨u, i, a, b, d, T⟩ := trace_of_step hr h
  have htach : a.tach = { s.tach with prev := (nextInputs s).tach } := T.afterRequest.tach
  obtain ⟨hport, hconsumed⟩ : b.tach = a.tach ∧ b.wires.consumed = a.wires.consumed := by
    rcases T.dispatched with ⟨-, rfl⟩ | ⟨hvalid, j, hword, -, heffect⟩ | ⟨-, -, rfl⟩
    · exact ⟨rfl, rfl⟩
    · refine heffect.tach fun x y hj => ?_
      rw [elapsed, ← T.msClock.2, htach, T.afterRequest.cfg]
      exact hearly x y ⟨hvalid, hj ▸ hword⟩
    · exact ⟨rfl, rfl⟩
  have hnone : b.wires.consumed[c] = false := by
    rw [hconsumed, T.afterRequest.consumed]
    exact perFan_get (fun _ => false) c
  have hpulse : t.tach.pulse[c] = if (frontPhases s).wires.edge[c] then s.tach.pulse[c] + 1 else s.tach.pulse[c] := by
    rw [T.pulse c, hnone, hport, htach]
    simp
  refine ⟨?_, ?_, ?_, fun hedge => ?_, fun hedge => ?_⟩
  · rw [T.afterStep.tach, hport, htach]
  · rw [T.afterStep.tach, hport, htach]
  · rw [T.afterStep.tach, hport, htach]
  · rw [hpulse, if_pos (edge_iff_falling.mpr hedge)]
  · rw [hpulse, if_neg (mt edge_iff_falling.mp hedge)]

/-! ## The step of a due UPDATE -/

/-- What a due UPDATE's step leaves of an active channel, by its edge and its draw (R202, R203). -/
theorem Trace.captured {s u a b d t : State} {i : Option Instr} (T : Trace s u i a b d t) {x y : Byte} {c : Fin Extent.fans}
    (hj : DispatchesNext s (.update x y)) (hdue : s.cfg.rpmWindowMs ≤ (t.msClock - s.tach.windowStart).toNat)
    (hc : c.val < s.cfg.fanCount) :
    t.tach.pulse[c] = (if (frontPhases s).wires.edge[c] = true ∧ (nextInputs s).captureDraw[c] = .new then 1 else 0) ∧
    t.tach.lastRpm[c].toNat = rpm s.cfg
      (if (frontPhases s).wires.edge[c] = true ∧ (nextInputs s).captureDraw[c] = .old then s.tach.pulse[c] + 1
        else s.tach.pulse[c]).toNat
      (t.msClock - s.tach.windowStart).toNat := by
  have htach : a.tach = { s.tach with prev := (nextInputs s).tach } := T.afterRequest.tach
  have hcfg : a.cfg = s.cfg := T.afterRequest.cfg
  have hedge : a.wires.edge[c] = (frontPhases s).wires.edge[c] := by rw [T.afterRequest.edge]
  have hdraw : a.inp.captureDraw[c] = (nextInputs s).captureDraw[c] := by rw [T.afterRequest.inp]
  have htime : elapsed a a.tach.windowStart = (t.msClock - s.tach.windowStart).toNat := by rw [elapsed, ← T.msClock.2, htach]
  have hb := T.exec_dispatched hj
  rw [exec_update_due (by rw [htime, hcfg]; exact hdue), htime] at hb
  cases hb
  obtain ⟨hpulse, hrpm, hconsumed⟩ := closeWindow_active (s := a) (c := c) (by rw [hcfg]; exact hc)
    (t.msClock - s.tach.windowStart).toNat
  constructor
  · rw [T.pulse c]
    simp only [respond_tach, respond_wires, hpulse, hconsumed, captureConsumes, hedge, hdraw]
    cases (frontPhases s).wires.edge[c] <;> cases (nextInputs s).captureDraw[c] <;> rfl
  · rw [T.afterStep.tach]
    simp only [respond_tach, hrpm, rpm_ofNat_toNat, hcfg, capturedPulses, hedge, hdraw, htach]

/-- Settles O32, reading `Trace.captured` at each draw. -/
theorem captureDrawPlacesACoincidentEdge : Obligations.CaptureDrawPlacesACoincidentEdge := by
  intro s t c x y e _ hr hj h he hdue hc
  obtain ⟨u, i, a, b, d, T⟩ := trace_of_step hr h
  obtain ⟨hpulse, hrpm⟩ := T.captured hj (he ▸ hdue) hc
  rw [← he] at hrpm
  rw [hpulse, hrpm]
  refine ⟨fun hedge => ?_, fun hedge hdraw => ?_, fun hedge hdraw => ?_, fun hedge hdraw => ?_⟩
  · simp [mt edge_iff_falling.mp hedge]
  · simp [edge_iff_falling.mpr hedge, hdraw]
  · simp [edge_iff_falling.mpr hedge, hdraw]
  · simp [edge_iff_falling.mpr hedge, hdraw]

end Sys2Proof.Machine
end

section
/-! The frame sender over a whole step (45_frame_sender.md): SEND, an emission under way, the end of a spacing, and
what TX_BUF holds. -/

namespace Sys2Proof.Machine

open Sys2Proof.Claims Sys2Proof.Safety

/-! ## SEND -/

/-- An oversize SEND is refused first (R222). -/
theorem exec_send_overflow {s : State} {n : Byte} (hn : s.cfg.txPayloadMax < n.toNat) (b : Byte) :
    exec (.send n b) s = .next (respond .fail 0 (raise .sendOverflow s)) :=
  if_pos hn

/-- A SEND that fits is refused while the sender is not free (R223). -/
theorem exec_send_busy {s : State} {n : Byte} (hn : n.toNat ≤ s.cfg.txPayloadMax) (hbusy : senderBusy s = true) (b : Byte) :
    exec (.send n b) s = .next (respond .busy 0 (raise .sendBusy s)) :=
  (if_neg hn.not_gt).trans (if_pos hbusy)

/-- A SEND that fits a free sender loads its frame (R220, R221). -/
theorem exec_send_ok {s : State} {n : Byte} (hn : n.toNat ≤ s.cfg.txPayloadMax) (hfree : senderBusy s = false) (b : Byte) :
    exec (.send n b) s = .next (respond .ok 0 (beginFrame (payloadLanes s.inp.dpPayload n.toNat) s)) :=
  (if_neg hn.not_gt).trans (if_neg (by simp [hfree]))

/-- The sender is busy outside IDLE, and with a reply owed (R223). -/
theorem senderBusy_eq_true {s : State} : senderBusy s = true ↔ s.tx.state ≠ .idle ∨ s.tx.probePending ≠ 0 := by
  simp [senderBusy]

/-- The frame of a SEND: header, the driven lanes, and their CRC (R97, R102). -/
theorem replyFrame_lanes {cfg : Config} (hv : cfg.valid = true) {lanes : List Byte} {n : Byte} (hn : n.toNat ≤ lanes.length) :
    replyFrame cfg (payloadLanes lanes n.toNat) =
      [0xC5, n + 1] ++ lanes.take n.toNat ++ [crc8 cfg ([0xC5, n + 1] ++ lanes.take n.toNat)] := by
  obtain ⟨-, hstart, -⟩ := valid_fixed hv
  have hlength : BitVec.ofNat 8 (n.toNat + 1) = n + 1 := by
    rw [BitVec.ofNat_add, BitVec.ofNat_toNat, BitVec.setWidth_eq]
    rfl
  simp only [replyFrame, payloadLanes_eq_take _ _ hn, List.length_take_of_le hn, hlength, hstart]

/-- Settles O34: the three outcomes are `exec_send_overflow`, `exec_send_busy` and `exec_send_ok`, the last one's frame
`replyFrame_lanes` and its TX_LEN `frameLen_toNat` and `frameLen_bounds`. -/
theorem sendLoadsAFrameOrIsRefused : Obligations.SendLoadsAFrameOrIsRefused := by
  intro s n b hv hlanes
  refine ⟨fun hn => exec_send_overflow hn b, fun hn hbusy => exec_send_busy hn (senderBusy_eq_true.mpr hbusy) b,
    fun hn hidle hp => ?_⟩
  obtain ⟨-, -, -, -, -, -, -, -, hroom, -⟩ := valid_bounds hv
  have hfits : n.toNat ≤ s.inp.dpPayload.length := hn.trans (of_decide_eq_true hlanes).ge
  obtain ⟨hmin, hmax⟩ := frameLen_bounds s.inp.txLenDraw (Nat.le_add_left 3 n.toNat)
  refine ⟨_, _, frameLen s.inp.txLenDraw (n.toNat + 3), ?_, frameLen_toNat _, hmin, by omega, rfl, rfl⟩
  rw [exec_send_ok hn (senderBusy_eq_false.mpr ⟨hidle, hp⟩) b, ← replyFrame_lanes hv hfits]
  simp only [beginFrame, loadFrame, payloadLanes_length]
  rfl

/-! ## The sender's place in a step -/

/-- A dispatch operation leaves the sender alone, but for a SEND that a free sender takes (R220). -/
theorem PortEffect.tx {s t : State} {i : Instr} (h : PortEffect s i t) :
    t.tx = s.tx ∨ (s.tx.state = .idle ∧ s.tx.probePending = 0 ∧ ∃ payload : List Byte,
      payload.length ≤ s.cfg.txPayloadMax ∧ t.tx = (beginFrame payload s).tx) := by
  cases h with
  | answer => exact .inl rfl
  | sendRefused => exact .inl rfl
  | setpwmFailed => exact .inl (by simp)
  | popped => exact .inl rfl
  | dutySet => exact .inl rfl
  | windowClosed => exact .inl rfl
  | sent n b hn hidle hp => exact .inr ⟨hidle, hp, _, by rwa [payloadLanes_length], rfl⟩

/-- The receiver's instruction writes no more of the sender than the replies owed. -/
theorem AfterRequest.tx_state {s a : State} (h : AfterRequest s a) : a.tx.state = s.tx.state := by
  rw [h.tx]

/-- What phase P4 leaves of the sender. -/
theorem Trace.dispatched_tx {s u a b c t : State} {i : Option Instr} (T : Trace s u i a b c t) :
    b.tx = a.tx ∨ (a.tx.state = .idle ∧ a.tx.probePending = 0 ∧ ∃ payload : List Byte,
      payload.length ≤ a.cfg.txPayloadMax ∧ b.tx = (beginFrame payload a).tx) := by
  rcases T.dispatched with ⟨-, rfl⟩ | ⟨-, j, -, -, heffect⟩ | ⟨-, -, rfl⟩
  · exact .inl rfl
  · exact heffect.tx
  · exact .inl rfl

/-- The sender phase of a step finds the sender, the configuration, the clock and the inputs of the dispatch operation, and leaves
the step's sender and its outputs. -/
theorem Trace.sender {s u a b c t : State} {i : Option Instr} (T : Trace s u i a b c t) : ∃ v : State,
    senderPhase v = .next c ∧ v.tx = b.tx ∧ v.cfg = s.cfg ∧ v.msClock = t.msClock ∧ v.inp = nextInputs s ∧ t.tx = c.tx ∧
    t.out.txValid = c.out.txValid ∧ t.out.txData = c.out.txData ∧ t.out.txBusy = c.out.txBusy := by
  refine ⟨_, T.send, by simp, by simpa using T.dispatched_cfg, by simpa using T.afterStep.msClock.symm,
    by simpa using T.dispatched_inp, T.afterStep.tx, ?_⟩
  rw [T.afterStep.out]
  exact ⟨rfl, rfl, rfl⟩

/-! ## One byte of an emission -/

/-- One `emit_step()`: the byte at TX_IDX is offered from a frame that stays as it is, the index goes on if the byte is taken, and
the emission ends exactly after the last byte (R226). -/
structure EmitsOne (s t : State) : Prop where
  buf : t.tx.buf = s.tx.buf
  len : t.tx.len = s.tx.len
  owed : t.tx.probePending = s.tx.probePending
  valid : t.out.txValid = true
  data : t.out.txData = s.tx.buf.getD s.tx.idx.toNat 0
  idx : t.tx.idx.toNat = s.tx.idx.toNat + if s.inp.txReady then 1 else 0
  progress : (t.tx.state = .emit ∧ t.tx.idx.toNat < t.tx.len.toNat) ∨ (t.tx.state = .space ∧ t.tx.idx = t.tx.len)

theorem emitByte_emitsOne {s : State} (he : s.tx.state = .emit) (hi : s.tx.idx.toNat < s.tx.len.toNat) : EmitsOne s (emitByte s) := by
  cases hready : s.inp.txReady with
  | false =>
    rw [emitByte_wait hready]
    exact ⟨rfl, rfl, rfl, rfl, rfl, by simp [hready], .inl ⟨he, hi⟩⟩
  | true =>
    by_cases hlast : s.tx.idx + 1 = s.tx.len
    · rw [emitByte_last hready hlast]
      exact ⟨rfl, rfl, rfl, rfl, rfl, by simpa [hready] using idx_succ_toNat hi, .inr ⟨rfl, hlast⟩⟩
    · have hmore : (s.tx.idx + 1).toNat < s.tx.len.toNat := by
        rw [idx_succ_eq_len_iff hi] at hlast
        rw [idx_succ_toNat hi]
        omega
      rw [emitByte_more hready hlast]
      exact ⟨rfl, rfl, rfl, rfl, rfl, by simpa [hready] using idx_succ_toNat hi, .inl ⟨he, hmore⟩⟩

/-- Settles O39: neither the receiver's instruction nor the dispatch port touches an emission, and the sender phase is one
`emit_step()` (`emitByte_emitsOne`). -/
theorem nothingInterruptsAnEmission : Obligations.NothingInterruptsAnEmission := by
  intro s t hinv hr h he
  obtain ⟨u, i, a, b, c, T⟩ := trace_of_step hr h
  obtain ⟨-, hemit, -, hbuf⟩ := hinv.tx
  obtain ⟨-, hmax, hlt⟩ := hemit he
  have ha := T.afterRequest.tx
  have hstate := T.afterRequest.tx_state
  obtain ⟨v, hsend, hv, -, -, hinp, ht, hvalid, hdata, -⟩ := T.sender
  have hbtx : b.tx = a.tx := T.dispatched_tx.resolve_right (fun ⟨hidle, _⟩ => by simp [hstate, he] at hidle)
  rw [hbtx, ha] at hv
  have hve : v.tx.state = .emit := by rw [hv]; exact he
  have hvi : v.tx.idx.toNat < v.tx.len.toNat := by rw [hv]; exact hlt
  have hvb : v.tx.idx.toNat < v.tx.buf.length := by rw [hv]; exact hbuf ▸ hlt.trans_le hmax
  rw [senderPhase_underWay hve hvi hvb] at hsend
  cases hsend
  obtain ⟨h1, h2, -, h4, h5, h6, h7⟩ := emitByte_emitsOne hve hvi
  rw [ht, hvalid, hdata]
  simp only [hv, hinp] at h1 h2 h5 h6
  exact ⟨h1, h2, h4, h5, h6, h7.imp And.left id⟩

/-! ## `tx_busy` and IDLE -/

/-- `tx_busy` shows the sender as the phase leaves it (R229). -/
theorem senderPhase_txBusy {s t : State} (h : senderPhase s = .next t) :
    t.out.txBusy = true ↔ t.tx.state ≠ .idle ∨ t.tx.probePending ≠ 0 := by
  obtain ⟨u, -, -, ⟨-, -, -, rfl⟩ | ⟨-, rfl⟩⟩ := senderPhase_cases h
  · exact senderBusy_eq_true
  · exact senderBusy_eq_true

/-- Settles O40: the sender phase shows it (`senderPhase_txBusy`), and nothing after that phase writes the sender. -/
theorem txBusyShowsTheSender : Obligations.TxBusyShowsTheSender := by
  intro s t hr h
  obtain ⟨u, i, a, b, c, T⟩ := trace_of_step hr h
  obtain ⟨v, hsend, -, -, -, -, ht, -, -, hbusy⟩ := T.sender
  rw [hbusy, ht]
  exact senderPhase_txBusy hsend

/-- The sender phase ends in IDLE only from IDLE or at the end of a spacing (R227). -/
theorem senderPhase_idle {s t : State} (h : senderPhase s = .next t) (hidle : t.tx.state = .idle) :
    s.tx.state = .idle ∨ (s.tx.state = .space ∧ s.cfg.spacingMs ≤ elapsed s s.tx.spaceStart) := by
  obtain ⟨u, rfl, -, ⟨he, hlt, -, rfl⟩ | ⟨-, rfl⟩⟩ := senderPhase_cases h
  · rcases (emitByte_emitsOne he hlt).progress with ⟨hstate, -⟩ | ⟨hstate, -⟩ <;> simp [hstate] at hidle
  · rw [showBusy_tx] at hidle
    rcases endSpacing_startProbe_cases s with ⟨-, -, hbegun⟩ | ⟨hspace, -, hdue, -⟩ | ⟨hsame, -, -⟩
    · rw [hbegun] at hidle
      cases hidle
    · exact .inr ⟨hspace, hdue⟩
    · rw [hsame] at hidle
      exact .inl hidle

/-- Settles O38: no phase before the sender's brings it to IDLE, and that one does only at the end of a spacing
(`senderPhase_idle`). -/
theorem senderBecomesIdleOnlyAfterTheSpacing : Obligations.SenderBecomesIdleOnlyAfterTheSpacing := by
  intro s t hr h hbusy hidle
  obtain ⟨u, i, a, b, c, T⟩ := trace_of_step hr h
  have ha := T.afterRequest.tx
  have hstate := T.afterRequest.tx_state
  obtain ⟨v, hsend, hv, hcfg, hclock, -, ht, -⟩ := T.sender
  have hbtx : b.tx = a.tx := T.dispatched_tx.resolve_right (fun ⟨hfree, _⟩ => hbusy (hstate ▸ hfree))
  rw [hbtx, ha] at hv
  rw [ht] at hidle
  have hend := senderPhase_idle hsend hidle
  rw [elapsed, hv, hcfg, hclock] at hend
  exact hend.resolve_left hbusy

/-! ## What TX_BUF holds -/

/-- A frame just begun is a whole reply frame (R97, R221). -/
theorem emitsReplyFrame_beginFrame (payload : List Byte) (s : State) : EmitsReplyFrame s.cfg (beginFrame payload s).tx := by
  intro _
  refine ⟨payload, ?_, frameLen_toNat s.inp.txLenDraw⟩
  change (replyFrame s.cfg payload ++ s.tx.buf.drop (payload.length + 3)).take (payload.length + 3) = _
  rw [List.take_left' (replyFrame_length _ _)]

/-- An emission that goes on with its frame as it was still emits a reply frame. -/
theorem emitsReplyFrame_keeps {cfg : Config} {x y : Tx} (h : EmitsReplyFrame cfg x)
    (hkeeps : y.state = .emit → x.state = .emit ∧ y.buf = x.buf ∧ y.len = x.len) : EmitsReplyFrame cfg y := by
  intro he
  obtain ⟨hx, hbuf, hlen⟩ := hkeeps he
  rw [hbuf, hlen]
  exact h hx

/-- The sender phase keeps a reply frame in TX_BUF, and begins one with an owed probe reply (R225, R226). -/
theorem senderPhase_emitsReplyFrame {s t : State} (h : senderPhase s = .next t) (hs : EmitsReplyFrame s.cfg s.tx) :
    EmitsReplyFrame s.cfg t.tx := by
  have hsettled : EmitsReplyFrame s.cfg (endSpacing (startProbe s)).tx := by
    rcases endSpacing_startProbe_cases s with ⟨-, -, hbegun⟩ | ⟨-, -, -, hended⟩ | ⟨hsame, -, -⟩
    · rw [hbegun]
      exact emitsReplyFrame_keeps (emitsReplyFrame_beginFrame (probePayload s.cfg) s) fun _ => ⟨rfl, rfl, rfl⟩
    · rw [hended]
      exact nofun
    · rw [hsame]
      exact hs
  obtain ⟨u, rfl, -, ⟨he, hlt, -, rfl⟩ | ⟨-, rfl⟩⟩ := senderPhase_cases h
  · have hone := emitByte_emitsOne he hlt
    exact emitsReplyFrame_keeps hsettled fun _ => ⟨he, hone.buf, hone.len⟩
  · exact hsettled

/-- Settles O53: a SEND begins a reply frame (`emitsReplyFrame_beginFrame`), the other phases before the sender's leave the frame
alone, and the sender phase keeps it (`senderPhase_emitsReplyFrame`). After a reset step nothing is emitted. -/
theorem everyEmittedFrameIsAReplyFrame : Obligations.EveryEmittedFrameIsAReplyFrame := by
  intro s t _ hs h
  cases hr : (nextInputs s).rst with
  | true =>
    rw [eq_resetPhase_of_step hr h]
    exact nofun
  | false =>
    obtain ⟨u, i, a, b, c, T⟩ := trace_of_step hr h
    obtain ⟨v, hsend, hv, hcfg, -, -, ht, -⟩ := T.sender
    have ha : EmitsReplyFrame s.cfg a.tx := by
      rw [T.afterRequest.tx]
      exact emitsReplyFrame_keeps hs fun he => ⟨he, rfl, rfl⟩
    have hb : EmitsReplyFrame s.cfg b.tx := by
      rcases T.dispatched_tx with hsame | ⟨-, -, payload, -, hbegun⟩
      · rw [hsame]
        exact ha
      · rw [hbegun, ← T.afterRequest.cfg]
        exact emitsReplyFrame_beginFrame payload a
    have hc := senderPhase_emitsReplyFrame hsend (by rw [hv, hcfg]; exact hb)
    rw [T.cfg, ht, ← hcfg]
    exact hc

end Sys2Proof.Machine
end

section
/-! The command queue and the error flags over a whole step (42_command_queue.md R170 to R174, 60_exceptions.md R260, R264). -/

namespace Sys2Proof.Machine

open Sys2Proof.Claims Sys2Proof.Safety

/-! ## Flags -/

/-- A raised kind sets its own bit and no other (R260). -/
theorem raise_flag (k : ErrKind) (s : State) (n : Nat) :
    (raise k s).out.errFlags.getLsbD n = (s.out.errFlags.getLsbD n || decide (k.bit = n)) := by
  have hbit : k.bit < 16 := by cases k <;> decide
  simp [raise_out, ErrKind.mask, BitVec.getLsbD_twoPow, hbit]

/-- A dispatch operation raises none of the receiver's and the queue's kinds, nor ILLEGAL_OP, and SEND_OVERFLOW only for a payload
that does not fit (R222, R260). -/
theorem PortEffect.flag {s t : State} {i : Instr} (h : PortEffect s i t) {n : Nat} (hn : n < 7 ∨ 9 < n)
    (hsend : n = 6 → ∀ m b, i = .send m b → m.toNat ≤ s.cfg.txPayloadMax) :
    t.out.errFlags.getLsbD n = s.out.errFlags.getLsbD n := by
  have hraise : ∀ (k : ErrKind) (s : State), k.bit ≠ n → (raise k s).out.errFlags.getLsbD n = s.out.errFlags.getLsbD n :=
    fun k s hk => by rw [raise_flag, decide_eq_false hk, Bool.or_false]
  have hraiseIf : ∀ (b : Bool) (k : ErrKind) (s : State), k.bit ≠ n →
      (raiseIf b k s).out.errFlags.getLsbD n = s.out.errFlags.getLsbD n := fun b k s hk => by
    cases b
    · rfl
    · exact hraise k s hk
  cases h with
  | answer => rfl
  | sendRefused m b status k hk =>
    refine hraise k s fun hbit => ?_
    rcases hk with ⟨rfl, hover⟩ | ⟨rfl, -⟩
    · exact absurd (hsend hbit.symm m b rfl) hover.not_ge
    · change 7 = n at hbit
      omega
  | setpwmFailed c p bc bp =>
    have hpercent : ErrKind.pwmOutOfRange.bit ≠ n := by change 9 ≠ n; omega
    have hchannel : ErrKind.channelOutOfRange.bit ≠ n := by change 8 ≠ n; omega
    exact (hraiseIf bp _ _ hpercent).trans (hraiseIf bc _ s hchannel)
  | popped => rfl
  | dutySet => rfl
  | windowClosed => rfl
  | sent => rfl

/-- Phase P4 raises none of the receiver's and the queue's kinds. -/
theorem Trace.dispatched_flag {s u a b c t : State} {i : Option Instr} (T : Trace s u i a b c t) {n : Nat} (hn : n < 6 ∨ 10 < n) :
    b.out.errFlags.getLsbD n = a.out.errFlags.getLsbD n := by
  rcases T.dispatched with ⟨-, rfl⟩ | ⟨-, j, -, -, heffect⟩ | ⟨-, -, rfl⟩
  · rfl
  · exact heffect.flag (by omega) (by omega)
  · refine (raise_flag .illegalOp a n).trans ?_
    rw [decide_eq_false (show ErrKind.bit .illegalOp ≠ n by change 10 ≠ n; omega), Bool.or_false]

/-! ## What the receiver's instruction hands on -/

/-- The record that a step's decoded instruction hands to the push: none without one, and none for ProbeDevice (R146, R147). -/
def recordToPush (i : Option Instr) : Option Word := if i = some .probeDevice then none else i.map recordWord

/-- The flags of a step before its dispatch operation: none, or one receiver event (R264). -/
def receiverEvents : List (BitVec 16) := [0x0000#16, 0x0001#16, 0x0002#16, 0x0004#16, 0x0008#16, 0x0010#16, 0x0800#16]

/-- No receiver event is QUEUE_OVERFLOW (R260). -/
theorem receiverEvents_queueOverflow : ∀ flags ∈ receiverEvents, flags.getLsbD 5 = false := by simp [receiverEvents]

/-- A receiver event is one bit (R264). -/
theorem receiverEvents_one : ∀ flags ∈ receiverEvents, ∀ i ∈ [0, 1, 2, 3, 4, 11], ∀ j ∈ [0, 1, 2, 3, 4, 11],
    flags.getLsbD i = true → flags.getLsbD j = true → i = j := by simp [receiverEvents]

/-- No receiver event is a reserved bit (R260). -/
theorem receiverEvents_reserved {flags : BitVec 16} (h : flags ∈ receiverEvents) {k : Nat} (hk : 12 ≤ k) :
    flags.getLsbD k = false := by
  have hsmall : ∀ flags ∈ receiverEvents, flags.toNat < 2 ^ 12 := by simp [receiverEvents]
  exact Nat.testBit_lt_two_pow ((hsmall flags h).trans_le (Nat.pow_le_pow_right (by decide) hk))

/-- The receiver and its instruction hand on the instruction's record, and raise one receiver event at most (R146, R264). -/
theorem Trace.requested {s u a b c t : State} {i : Option Instr} (T : Trace s u i a b c t) :
    a.wires.push = recordToPush i ∧ a.out.errFlags ∈ receiverEvents := by
  obtain ⟨rx, flag, rfl, hflag, hquiet, hrequest⟩ := receivePhase_cases T.receive
  have hrun := T.request
  cases i with
  | none =>
    cases hrun
    refine ⟨frontPhases_push s, ?_⟩
    rw [frontPhases_out]
    change 0#16 ||| flag ∈ _
    rw [BitVec.zero_or]
    exact List.mem_append_left [0x0800#16] hflag
  | some j =>
    obtain ⟨rfl, -⟩ := hquiet nofun
    change exec j _ = _ at hrun
    by_cases hp : j = .probeDevice
    · subst hp
      cases hrun
      refine ⟨by simp [recordToPush], ?_⟩
      unfold probeRequest
      split <;> simp [raise_out, announce_out, Outputs.idle, mask_eq, ErrKind.bit, receiverEvents]
    · rw [queuedRequest_showsAndPushes (hrequest j rfl) hp] at hrun
      cases hrun
      exact ⟨by simp [recordToPush, hp], by simp [Outputs.idle, receiverEvents]⟩

/-! ## The dispatch port and the queue -/

/-- Of the dispatch operations only QPOP writes the queue, and none touches the record to push. -/
theorem PortEffect.q {s t : State} {i : Instr} (h : PortEffect s i t) :
    ((∀ a b, i ≠ .qpop a b) → t.q = s.q) ∧ t.wires.push = s.wires.push := by
  cases h with
  | answer => exact ⟨fun _ => rfl, rfl⟩
  | sendRefused => exact ⟨fun _ => rfl, rfl⟩
  | setpwmFailed => simp
  | popped a b => exact ⟨fun hi => absurd rfl (hi a b), rfl⟩
  | dutySet => exact ⟨fun _ => rfl, rfl⟩
  | windowClosed => exact ⟨fun _ => rfl, rfl⟩
  | sent => exact ⟨fun _ => rfl, rfl⟩

/-- Phase P4 keeps the record to push, and without a QPOP the queue. -/
theorem Trace.dispatched_q {s u a b c t : State} {i : Option Instr} (T : Trace s u i a b c t) :
    b.wires.push = recordToPush i ∧ ((¬∃ x y, DispatchesNext s (.qpop x y)) → b.q = s.q) := by
  rw [← T.requested.1, ← T.afterRequest.q]
  rcases T.dispatched with ⟨-, rfl⟩ | ⟨hvalid, j, hword, -, heffect⟩ | ⟨-, -, rfl⟩
  · exact ⟨rfl, fun _ => rfl⟩
  · obtain ⟨hq, hpush⟩ := heffect.q
    exact ⟨hpush, fun hnone => hq fun x y hj => hnone ⟨x, y, hvalid, hj ▸ hword⟩⟩
  · exact ⟨rfl, fun _ => rfl⟩

/-- With a QPOP phase P4 takes the oldest record and responds with it (R171). -/
theorem Trace.popped {s u a b c t : State} {i : Option Instr} (T : Trace s u i a b c t) (hq : QueueInv s.cfg s.q) {x y : Byte}
    (hpop : DispatchesNext s (.qpop x y)) :
    queueContents s.cfg b.q = (queueContents s.cfg s.q).tail ∧ b.out = popResponse a.out (queueContents s.cfg s.q) := by
  obtain ⟨q, hexec, -, hcontents⟩ := exec_qpop (s := a) (by rw [T.afterRequest.cfg]; exact T.valid)
    (by rw [T.afterRequest.cfg, T.afterRequest.q]; exact hq) x y
  cases hexec.symm.trans (T.exec_dispatched hpop)
  rw [← T.afterRequest.cfg, ← T.afterRequest.q]
  exact ⟨hcontents, rfl⟩

/-! ## The push of a step -/

/-- The records that phase P5 appends: the one to push, if there is room (R170, R172). -/
def appended (cfg : Config) (q : Queue) (record : Option Word) : List Word :=
  if q.count.toNat < cfg.queueCap then record.toList else []

/-- Phase P5 appends what there is room for, and flags a record it drops (R170, R172). -/
theorem pushPhase_appends {s : State} (hcap : s.cfg.queueCap = 10) :
    queueContents s.cfg (pushPhase s).q = queueContents s.cfg s.q ++ appended s.cfg s.q s.wires.push ∧
    (pushPhase s).out.errFlags.getLsbD 5 =
      (s.out.errFlags.getLsbD 5 || (s.wires.push.isSome && decide (s.cfg.queueCap ≤ s.q.count.toNat))) := by
  rcases pushPhase_cases s with ⟨hnone, hp⟩ | ⟨rec, hsome, ⟨hroom, hp⟩ | ⟨hfull, hp⟩⟩
  · rw [hp, hnone]
    exact ⟨by simp [appended], by simp [showCount]⟩
  · rw [hp, hsome, appended, if_pos hroom]
    exact ⟨queueContents_pushed hcap s.q rec hroom, by simp [showCount, hroom]⟩
  · rw [hp, hsome, appended, if_neg hfull.not_gt]
    refine ⟨by simp, (raise_flag .queueOverflow _ 5).trans ?_⟩
    simp [hfull, ErrKind.bit]

/-- What phase P5 does in a step. -/
theorem Trace.pushes {s u a b c t : State} {i : Option Instr} (T : Trace s u i a b c t) :
    queueContents s.cfg t.q = queueContents s.cfg b.q ++ appended s.cfg b.q (recordToPush i) ∧
    t.out.errFlags.getLsbD 5 = ((recordToPush i).isSome && decide (s.cfg.queueCap ≤ b.q.count.toNat)) := by
  have hcfg := T.dispatched_cfg
  obtain ⟨-, -, -, -, -, hcap, -⟩ := valid_fixed T.valid
  obtain ⟨hcontents, hflag⟩ := pushPhase_appends (s := b) (hcfg ▸ hcap)
  have hclear : b.out.errFlags.getLsbD 5 = false := by
    rw [T.dispatched_flag (.inl (by decide))]
    exact receiverEvents_queueOverflow _ T.requested.2
  rw [hclear, Bool.false_or] at hflag
  rw [T.afterStep.q, T.afterStep.out, ← hcfg, ← T.dispatched_q.1]
  exact ⟨hcontents, hflag⟩

/-- After a QPOP there is room for one more record (R173). -/
theorem Trace.room_after_pop {s u a b c t : State} {i : Option Instr} (T : Trace s u i a b c t) (hq : QueueInv s.cfg s.q)
    {x y : Byte} (hpop : DispatchesNext s (.qpop x y)) : b.q.count.toNat < s.cfg.queueCap := by
  obtain ⟨-, -, -, -, -, hcap, -⟩ := valid_fixed T.valid
  have hlength := congrArg List.length (T.popped hq hpop).1
  simp only [List.length_tail, queueContents_length] at hlength
  have hmax := hq.1
  omega

/-- Settles O22: the pop is `Trace.popped`, the push is `Trace.pushes`, and it has room unless the queue was full and nothing was
popped (`Trace.room_after_pop`). -/
theorem queueIsFirstInFirstOut : Obligations.QueueIsFirstInFirstOut := by
  intro s t hinv hr h
  obtain ⟨u, i, a, b, c, T⟩ := trace_of_step hr h
  obtain ⟨hcontents, hflag⟩ := T.pushes
  have hdecoded : ∀ j, DecodesNext s j → i = some j := fun j ⟨v, hv⟩ => by
    cases T.receive.symm.trans hv
    rfl
  refine ⟨appended s.cfg b.q (recordToPush i), fun j hj hp => ?_, fun hall => ?_, fun ⟨x, y, hpop⟩ => ?_, fun hnone => ?_⟩
  · obtain rfl := hdecoded j hj
    have hrecord : recordToPush (some j) = some (recordWord j) := by simp [recordToPush, hp]
    rw [hrecord] at hflag ⊢
    refine ⟨fun hroom => ?_, fun hfull hnone => ?_⟩
    · have hlt : b.q.count.toNat < s.cfg.queueCap := by
        by_cases hpop : ∃ x y, DispatchesNext s (.qpop x y)
        · obtain ⟨x, y, hpop⟩ := hpop
          exact T.room_after_pop hinv.queue hpop
        · rw [T.dispatched_q.2 hpop]
          exact hroom.resolve_right hpop
      exact ⟨if_pos hlt, by simpa using hflag.trans (by simp [hlt])⟩
    · rw [T.dispatched_q.2 hnone] at hflag ⊢
      exact ⟨if_neg hfull.ge.not_gt, by simpa [hfull] using hflag⟩
  · have hrecord : recordToPush i = none := by
      cases i with
      | none => rfl
      | some j => rw [hall j ⟨u, T.receive⟩]; rfl
    rw [hrecord] at hflag ⊢
    exact ⟨by simp [appended], by simpa using hflag⟩
  · obtain ⟨htail, hout⟩ := T.popped hinv.queue hpop
    obtain ⟨-, hstatus, hdata⟩ := T.afterStep.response
    rw [hcontents, hstatus, hdata, htail, hout]
    refine ⟨fun hempty => ?_, fun w rest hcons => ?_⟩
    · rw [hempty]
      exact ⟨rfl, rfl⟩
    · rw [hcons]
      exact ⟨rfl, rfl, rfl⟩
  · rw [hcontents, T.dispatched_q.2 hnone]

/-! ## What the queue holds -/

/-- Settles O54: the records left are ones held before, and the appended one is a pushed record (`AfterRequest.push`). A reset step
leaves none. -/
theorem queueHoldsOnlyPushedKinds : Obligations.QueueHoldsOnlyPushedKinds := by
  intro s t hinv hs h
  cases hr : (nextInputs s).rst with
  | true =>
    intro w hw
    rw [eq_resetPhase_of_step hr h, (queueContents_eq_nil _ _).mpr rfl] at hw
    cases hw
  | false =>
    obtain ⟨u, i, a, b, c, T⟩ := trace_of_step hr h
    have hleft : ∀ w ∈ queueContents s.cfg b.q, w ∈ queueContents s.cfg s.q := by
      by_cases hpop : ∃ x y, DispatchesNext s (.qpop x y)
      · obtain ⟨x, y, hpop⟩ := hpop
        rw [(T.popped hinv.queue hpop).1]
        exact fun w => List.mem_of_mem_tail
      · rw [T.dispatched_q.2 hpop]
        exact fun w => id
    have hnew : ∀ w ∈ appended s.cfg b.q (recordToPush i), PushedRecord w := by
      intro w hw
      have hrecord : recordToPush i = some w := by
        unfold appended at hw
        split at hw
        · simpa using hw
        · cases hw
      rw [← T.requested.1] at hrecord
      rcases T.afterRequest.push with hnone | ⟨rec, hsome, -, -, hpushed⟩
      · rw [hnone] at hrecord
        cases hrecord
      · cases hsome.symm.trans hrecord
        exact hpushed
    intro w hw
    rw [T.cfg, T.pushes.1] at hw
    exact (List.mem_append.mp hw).elim (fun hold => hs w (hleft w hold)) (hnew w)

/-! ## Receiver events -/

/-- Phase P5 raises QUEUE_OVERFLOW at most (R172). -/
theorem pushPhase_flag {s : State} {n : Nat} (hn : n ≠ 5) : (pushPhase s).out.errFlags.getLsbD n = s.out.errFlags.getLsbD n := by
  rcases pushPhase_cases s with ⟨-, hp⟩ | ⟨rec, -, ⟨-, hp⟩ | ⟨-, hp⟩⟩
  · rw [hp]
    rfl
  · rw [hp]
    rfl
  · rw [hp]
    refine (raise_flag .queueOverflow _ n).trans ?_
    rw [decide_eq_false (show ErrKind.bit .queueOverflow ≠ n from hn.symm), Bool.or_false]

/-- The bits outside 5 to 10 are those the receiver and its instruction raised. -/
theorem Trace.flag {s u a b c t : State} {i : Option Instr} (T : Trace s u i a b c t) {n : Nat} (hn : n < 5 ∨ 10 < n) :
    t.out.errFlags.getLsbD n = a.out.errFlags.getLsbD n := by
  rw [T.afterStep.out]
  exact (pushPhase_flag (by omega)).trans (T.dispatched_flag (by omega))

/-- Settles O52: the receiver and its instruction raise one event at most (`Trace.requested`), and no later phase raises a kind of
theirs (`Trace.flag`). A reset step raises none. -/
theorem atMostOneReceiverEventPerStep : Obligations.AtMostOneReceiverEventPerStep := by
  intro s t h
  obtain ⟨flags, hevent, hflag⟩ : ∃ flags ∈ receiverEvents, ∀ n, n < 5 ∨ 10 < n → t.out.errFlags.getLsbD n = flags.getLsbD n := by
    cases hr : (nextInputs s).rst with
    | true =>
      rw [eq_resetPhase_of_step hr h]
      exact ⟨0, List.mem_cons_self .., fun _ _ => rfl⟩
    | false =>
      obtain ⟨u, i, a, b, c, T⟩ := trace_of_step hr h
      exact ⟨_, T.requested.2, fun n hn => T.flag hn⟩
  have hbits : ∀ n ∈ [0, 1, 2, 3, 4, 11], n < 5 ∨ 10 < n := by decide
  refine ⟨fun i hi j hj => ?_, fun k hk => ?_⟩
  · rw [hflag i (hbits i hi), hflag j (hbits j hj)]
    exact receiverEvents_one flags hevent i hi j hj
  · rw [hflag k (by omega)]
    exact receiverEvents_reserved hevent hk

end Sys2Proof.Machine
end

section
/-! Reset (70_reset_and_hazards.md R280): the state after it, and a reset step. -/

namespace Sys2Proof.Machine

open Sys2Proof.Claims Sys2Proof.Safety

/-! ## The state after reset -/

/-- After reset an active channel's DUTY is the initial one (R280). -/
theorem afterReset_duty {cfg : Config} {c : Fin Extent.fans} (hc : c.val < cfg.fanCount) :
    (State.afterReset cfg).pwm.duty[c] = dutyOf cfg.timerTop cfg.initDutyPercent := by
  simp only [State.afterReset, perFan_get, hc, if_true]

/-- After reset DUTY_ACTIVE is DUTY (R280). -/
theorem afterReset_dutyActive (cfg : Config) : (State.afterReset cfg).pwm.dutyActive = (State.afterReset cfg).pwm.duty := rfl

/-- After reset every channel has counted nothing, and its line is taken as 1 (R280, log 16). -/
theorem afterReset_tach (cfg : Config) (c : Fin Extent.fans) : (State.afterReset cfg).tach.pulse[c] = 0 ∧
    (State.afterReset cfg).tach.lastRpm[c] = 0 ∧ (State.afterReset cfg).tach.prev[c] = true :=
  ⟨perFan_get (fun _ => 0) c, perFan_get (fun _ => 0) c, perFan_get (fun _ => true) c⟩

/-- The duty of any percentage is at most TIMER_TOP (R48(g), R180). -/
theorem dutyOf_le {top : Nat} (htop : top ≤ 65535) (p : Nat) : (dutyOf top p).toNat ≤ top := by
  rw [dutyOf_toNat htop]
  exact Nat.sub_le _ _

/-- The state after reset meets R48 under every legal configuration. -/
theorem afterReset_inv {cfg : Config} (hv : cfg.valid = true) : Inv (State.afterReset cfg) := by
  obtain ⟨-, -, -, hlow, htop, -⟩ := valid_bounds hv
  obtain ⟨-, -, -, -, -, hcap, -⟩ := valid_fixed hv
  refine ⟨hv, ⟨rfl, rfl⟩, ⟨Nat.zero_le _, ?_⟩, ⟨fun c hc => ?_, ?_⟩, fun c _ => ?_, ⟨nofun, nofun, Nat.zero_le _, ?_⟩⟩
  · change 0 < cfg.queueCap
    omega
  · change c.val < cfg.fanCount at hc
    rw [afterReset_dutyActive, afterReset_duty hc]
    exact ⟨dutyOf_le htop _, dutyOf_le htop _⟩
  · change 0 < cfg.timerTop
    omega
  · exact ⟨(afterReset_tach cfg c).1, (afterReset_tach cfg c).2.1⟩
  · exact List.length_replicate

/-- Settles O43: `afterReset_inv`; State.reset differs from such a state in its outputs only. -/
theorem resetMeetsTheInvariant : Obligations.ResetMeetsTheInvariant := by
  refine ⟨fun _ => afterReset_inv, ?_⟩
  obtain ⟨hcfg, hrx, hqueue, hpwm, htach, htx⟩ := afterReset_inv (cfg := Config.reference) (by decide)
  exact ⟨hcfg, hrx, hqueue, hpwm, htach, htx⟩

/-- Settles O55: Q_COUNT is 0 after reset, and TX_STATE IDLE. -/
theorem resetHoldsNoFrameAndNoRecord : Obligations.ResetHoldsNoFrameAndNoRecord := by
  intro cfg
  have hempty : queueContents cfg (State.afterReset cfg).q = [] := (queueContents_eq_nil _ _).mpr rfl
  refine ⟨rfl, hempty, nofun, fun w hw => ?_⟩
  rw [hempty] at hw
  cases hw

/-! ## A reset step -/

/-- Phase P0 meets R48: its registers are those after reset. -/
theorem resetPhase_inv {s : State} (hv : s.cfg.valid = true) : Inv (resetPhase s) := by
  obtain ⟨hcfg, hrx, hqueue, hpwm, htach, htx⟩ := afterReset_inv hv
  exact ⟨hcfg, hrx, hqueue, hpwm, htach, htx⟩

/-- Settles O42: the step is phase P0 (`step_reset`), whose registers are `State.afterReset`'s, and whose pins compare a count of 0
going up. -/
theorem resetStepSetsEveryRegister : Obligations.ResetStepSetsEveryRegister := by
  intro s hv hr
  obtain ⟨-, -, -, -, htop, -⟩ := valid_bounds hv
  refine ⟨_, step_reset hv hr, rfl, rfl, rfl, rfl, rfl, rfl, rfl, rfl, rfl, rfl, rfl, fun c hc => ?_, afterReset_tach s.cfg, rfl,
    rfl, rfl, rfl, rfl, rfl, rfl, rfl, rfl, rfl, rfl, rfl, rfl, rfl, rfl, rfl, fun c => ⟨fun hc => ?_, fun hc => ?_⟩⟩
  · exact (congrArg BitVec.toNat (afterReset_duty hc)).trans (dutyOf_toNat htop _)
  · have hpin : (resetPhase (beginStep s)).out.pwmPin[c] = _ := pinLevels_active hc (State.afterReset s.cfg).pwm _
    rw [hpin, pinHigh_up rfl, decide_eq_true_eq]
    rfl
  · exact pinLevels_inactive hc (State.afterReset s.cfg).pwm _

end Sys2Proof.Machine
end

section
/-! The invariant of R48 (10_state.md): each phase of a step goes on from a state that meets it, to one that meets it. -/

namespace Sys2Proof.Machine

open Sys2Proof.Claims Sys2Proof.Safety

/-- The invariant speaks of the registers only, not of the clock, the inputs, the outputs or the wires. -/
theorem inv_of_registers {s t : State} (h : Inv s) (hcfg : t.cfg = s.cfg) (hrx : t.rx = s.rx) (hq : t.q = s.q)
    (hpwm : t.pwm = s.pwm) (htach : t.tach.pulse = s.tach.pulse ∧ t.tach.lastRpm = s.tach.lastRpm) (htx : t.tx = s.tx) : Inv t where
  cfg := hcfg ▸ h.cfg
  rx := by rw [hcfg, hrx]; exact h.rx
  queue := by rw [hcfg, hq]; exact h.queue
  pwm := by rw [hcfg, hpwm]; exact h.pwm
  tach := by
    rw [TachInv, hcfg, htach.1, htach.2]
    exact h.tach
  tx := by rw [hcfg, htx]; exact h.tx

/-- Phases P1 and P2 write the clock and the sampled line levels only (R22, R200). -/
theorem frontPhases_keeps_inv {s : State} (h : Inv s) : Inv (frontPhases s) :=
  inv_of_registers h (by simp) (by simp) (by simp) (by simp) (by simp) (by simp)

/-! ## The receiver -/

/-- A receiver in IDLE meets R48(b). -/
theorem rxInv_inIdle (cfg : Config) (r : Rx) : RxInv cfg (inIdle r) := ⟨rfl, rfl⟩

/-- R48(c) and (d) while the payload comes: at least the start and the length byte are stored, and RX_BUF has room. -/
theorem rxInv_awaitPayload {cfg : Config} (hv : cfg.valid = true) {r : Rx} (hstate : r.state = .awaitPayload)
    (h : RxInv cfg r) : ∃ len : Byte, rdAt r.buf 0 0 = 0xAA ∧ rdAt r.buf 1 0 = len ∧ 2 ≤ len.toNat ∧ len.toNat ≤ 5 ∧
      1 ≤ r.remaining.toNat ∧ r.remaining.toNat ≤ len.toNat ∧ r.count.toNat + r.remaining.toNat = len.toNat + 2 := by
  obtain ⟨hstart, hlo, hhi⟩ := valid_frame hv
  unfold RxInv at h
  rw [hstate, hstart, hlo, hhi] at h
  obtain ⟨h0, hmin, hmax, hone, hle, hsum⟩ := h
  exact ⟨_, h0, rfl, hmin, hmax, hone, hle, hsum⟩

/-- The bytes received before the trailer are a frame's body, once RX_BUF holds all of them (R48(c), (d)). -/
theorem receivedBytes_eq_frameBody {r : Rx} {len : Byte} (h0 : rdAt r.buf 0 0 = 0xAA) (h1 : rdAt r.buf 1 0 = len)
    (hmin : 2 ≤ len.toNat) (hmax : len.toNat ≤ 5) (hcount : r.count.toNat = len.toNat + 1) :
    ∃ (cmd : Byte) (args : List Byte), args.length ≤ 3 ∧ receivedBytes r = frameBody cmd args := by
  have hlength : (receivedBytes r).length = len.toNat + 1 := by
    simp only [receivedBytes, List.length_take, Vector.length_toList, hcount, Extent.rxBuf]
    omega
  rw [rdAt_of_lt _ (by decide)] at h0 h1
  have hget : ∀ k (hk : k < 7), k < len.toNat + 1 → (receivedBytes r)[k]? = some r.buf[k] := by
    intro k hk hlt
    simp [receivedBytes, hcount, hlt]
  have hfirst := hget 0 (by decide) (by omega)
  have hsecond := hget 1 (by decide) (by omega)
  rw [h0] at hfirst
  rw [h1] at hsecond
  match hbytes : receivedBytes r, hlength with
  | [], hlength => simp at hlength
  | [_], hlength => simp at hlength; omega
  | [_, _], hlength => simp at hlength; omega
  | b0 :: b1 :: cmd :: args, hlength =>
    rw [hbytes] at hfirst hsecond
    obtain rfl : b0 = 0xAA := by simpa using hfirst
    obtain rfl : b1 = len := by simpa using hsecond
    simp only [List.length_cons] at hlength
    have hlen : BitVec.ofNat 8 (args.length + 2) = b1 := by
      rw [show args.length + 2 = b1.toNat by omega, BitVec.ofNat_toNat, BitVec.setWidth_eq]
    exact ⟨cmd, args, by omega, by rw [frameBody, hlen]; rfl⟩

/-- The trailer check of a whole frame goes on, and leaves the receiver in IDLE (R144, R146). -/
theorem rxTrailer_next {s : State} (hv : s.cfg.valid = true) {cmd : Byte} {args : List Byte} {trailer : Byte}
    (hargs : args.length ≤ 3) (hbytes : receivedBytes s.rx = frameBody cmd args ++ [trailer]) :
    ∃ u i, rxTrailer s = .next (u, i) ∧ u.rx = inIdle s.rx := by
  have hdecode : decodeFrame s.cfg (receivedBytes s.rx) =
      if trailer = crc8 s.cfg (frameBody cmd args) then decodeCommand cmd args else .error .crcMismatch := by
    rw [hbytes]
    exact decodeFrame_wellShaped hv cmd args trailer hargs
  have hdropped : ∀ {e : FrameError} {k : ErrKind}, decodeFrame s.cfg (receivedBytes s.rx) = .error e → dropFlag e = some k →
      ∃ u i, rxTrailer s = .next (u, i) ∧ u.rx = inIdle s.rx := fun he hk => ⟨_, _, rxTrailer_dropped he hk, rfl⟩
  by_cases htrailer : trailer = crc8 s.cfg (frameBody cmd args)
  · rw [if_pos htrailer] at hdecode
    cases hknown : requiredLen cmd with
    | none => exact hdropped (hdecode.trans (decodeCommand_unknown args hknown)) rfl
    | some L =>
      by_cases hL : L = args.length + 2
      · obtain ⟨i, hi⟩ := decodeCommand_known (hknown.trans (congrArg some hL))
        exact ⟨_, _, rxTrailer_decoded (hdecode.trans hi), rfl⟩
      · exact hdropped (hdecode.trans (decodeCommand_badLength hknown hL)) rfl
  · rw [if_neg htrailer] at hdecode
    exact hdropped hdecode rfl

/-- A byte of the payload is taken, and keeps R48(c) and (d) (R143). -/
theorem rxPayload_keeps_rxInv {s : State} (hv : s.cfg.valid = true) (hstate : s.rx.state = .awaitPayload)
    (h : RxInv s.cfg s.rx) (b : Byte) : ∃ u i, rxPayload b s = .next (u, i) ∧ RxInv s.cfg u.rx := by
  obtain ⟨len, h0, h1, hmin, hmax, hone, hle, hsum⟩ := rxInv_awaitPayload hv hstate h
  have hroom : s.rx.count.toNat < 7 := by omega
  rw [rxPayload_room hv hroom]
  by_cases hlast : s.rx.remaining = 1
  · have hcount : s.rx.count.toNat = len.toNat + 1 := by
      rw [hlast] at hsum
      exact Nat.succ.inj hsum
    obtain ⟨cmd, args, hargs, hbody⟩ := receivedBytes_eq_frameBody h0 h1 hmin hmax hcount
    obtain ⟨u, i, hu, hrx⟩ := rxTrailer_next (s := storeByte b s) hv hargs (by rw [receivedBytes_storeByte b s hroom, hbody])
    exact ⟨u, i, (if_pos hlast).trans hu, hrx ▸ rxInv_inIdle _ _⟩
  · obtain ⟨hstart, hlo, hhi⟩ := valid_frame hv
    have hmore : s.rx.remaining.toNat ≠ 1 := fun h => hlast (BitVec.eq_of_toNat_eq h)
    have h0' : rdAt (storeByte b s).rx.buf 0 0 = 0xAA := (rdAt_wrAt_ne _ (by omega) _ _).trans h0
    have h1' : rdAt (storeByte b s).rx.buf 1 0 = len := (rdAt_wrAt_ne _ (by omega) _ _).trans h1
    have hcount : (s.rx.count + 1).toNat = s.rx.count.toNat + 1 := by bv_omega
    have hremaining : (s.rx.remaining - 1).toNat = s.rx.remaining.toNat - 1 := by bv_omega
    refine ⟨_, _, if_neg hlast, ?_⟩
    unfold RxInv
    rw [show (storeByte b s).rx.state = .awaitPayload from hstate, hstart, hlo, hhi, h1']
    change _ ∧ _ ∧ _ ∧ 1 ≤ (s.rx.remaining - 1).toNat ∧ (s.rx.remaining - 1).toNat ≤ len.toNat ∧
      (s.rx.count + 1).toNat + (s.rx.remaining - 1).toNat = len.toNat + 2
    rw [hcount, hremaining]
    exact ⟨h0', hmin, hmax, by omega, by omega, by omega⟩

/-- A byte is taken in every receiver state that meets R48, and keeps it (R140). -/
theorem rxByte_keeps_rxInv {s : State} (hv : s.cfg.valid = true) (h : RxInv s.cfg s.rx) (b : Byte) :
    ∃ u i, rxByte b s = .next (u, i) ∧ RxInv s.cfg u.rx := by
  obtain ⟨hstart, hlo, hhi⟩ := valid_frame hv
  cases hstate : s.rx.state with
  | idle =>
    rw [rxByte_idle hstate]
    by_cases hb : b = 0xAA
    · refine ⟨_, _, rfl, ?_⟩
      rw [hb, rxIdle_start hv]
      exact ⟨rfl, rfl, by rw [hstart, rdAt_of_lt _ (by decide)]; exact Vector.getElem_set_self _⟩
    · exact ⟨_, _, rfl, by rw [rxIdle_ignored hv hb]; exact h⟩
  | awaitLen =>
    rw [rxByte_awaitLen hstate]
    by_cases hb : 2 ≤ b.toNat ∧ b.toNat ≤ 5
    · refine ⟨_, _, rfl, ?_⟩
      rw [rxLen_inRange hv hb.1 hb.2, ← wrAt_of_lt _ (by decide)]
      unfold RxInv at h ⊢
      rw [hstate] at h
      have h1 : rdAt (wrAt s.rx.buf 1 b) 1 0 = b := rdAt_wrAt_same _ (by decide) b 0
      have hremaining : (b.setWidth 3).toNat = b.toNat := by
        rw [BitVec.toNat_setWidth]
        omega
      simp only [h1, hremaining, hlo, hhi, rdAt_wrAt_ne _ (show 1 ≠ 0 by decide), h.2.2]
      exact ⟨trivial, hb.1, hb.2, by omega, le_refl _, Nat.add_comm 2 _⟩
    · refine ⟨_, _, rfl, ?_⟩
      rw [rxLen_outOfRange hv (by omega)]
      exact rxInv_inIdle _ _
  | awaitPayload =>
    rw [rxByte_awaitPayload hstate]
    exact rxPayload_keeps_rxInv hv hstate h b
  | reserved =>
    unfold RxInv at h
    rw [hstate] at h
    exact h.elim

/-- Phase P3 goes on and keeps the invariant (R140, R48). -/
theorem receivePhase_keeps_inv {s : State} (h : Inv s) : ∃ u i, receivePhase s = .next (u, i) ∧ Inv u := by
  have hr : s.rx.state ≠ .reserved := fun hr => by
    have hrx := h.rx
    unfold RxInv at hrx
    rw [hr] at hrx
    exact hrx
  have hstall : RxInv s.cfg (stallCheck s).rx := by
    unfold stallCheck
    split
    · exact rxInv_inIdle _ _
    · exact h.rx
  obtain ⟨u, i, hu, hrx⟩ : ∃ u i, receivePhase s = .next (u, i) ∧ RxInv s.cfg u.rx := by
    cases hb : s.inp.rxValid with
    | true =>
      rw [receivePhase_byte hr hb]
      obtain ⟨u, i, hu, hrx⟩ := rxByte_keeps_rxInv (s := stallCheck s) (by simpa using h.cfg) (by simpa using hstall) s.inp.rxData
      exact ⟨u, i, hu, by simpa using hrx⟩
    | false => exact ⟨_, _, receivePhase_noByte hr hb, hstall⟩
  obtain ⟨rx, flag, rfl, -, -, -⟩ := receivePhase_cases hu
  exact ⟨_, _, hu, h.cfg, hrx, h.queue, h.pwm, h.tach, h.tx⟩

/-! ## The instructions -/

/-- Counting an owed reply stays within PROBE_PENDING_MAX, whatever the draw (R48(i), R147, log 10). -/
theorem probeRequest_keeps_inv {s : State} (h : Inv s) : Inv (probeRequest s) := by
  by_cases hfull : s.tx.probePending.toNat = s.cfg.probePendingMax
  · rw [probeRequest_full hfull]
    exact inv_of_registers h rfl rfl rfl rfl ⟨rfl, rfl⟩ rfl
  · rw [probeRequest_room hfull]
    obtain ⟨hstate, hemit, hpending, hbuf⟩ := h.tx
    refine ⟨h.cfg, h.rx, h.queue, h.pwm, h.tach, hstate, hemit, ?_, hbuf⟩
    change (oneMorePending s.inp.probePendingDraw s.tx.probePending).toNat ≤ s.cfg.probePendingMax
    by_cases hfits : s.tx.probePending.toNat < 255
    · rw [oneMorePending_toNat _ hfits]
      omega
    · have hdraw := s.inp.probePendingDraw.isLt
      rw [oneMorePending, if_neg hfits]
      omega

/-- A decoded request's meaning goes on and keeps the invariant (R146 to R150). -/
theorem exec_request_keeps_inv {i : Instr} {s : State} (hi : i.isRequest = true) (h : Inv s) : ∃ t, exec i s = .next t ∧ Inv t := by
  obtain ⟨t, ht⟩ := exec_request_next hi s
  refine ⟨t, ht, ?_⟩
  obtain ⟨rec, -, ⟨-, rfl⟩ | ⟨-, rfl⟩⟩ := exec_request hi ht
  · exact inv_of_registers h rfl rfl rfl rfl ⟨rfl, rfl⟩ rfl
  · exact probeRequest_keeps_inv (inv_of_registers h rfl rfl rfl rfl ⟨rfl, rfl⟩ rfl)

/-- A frame that fits begins within R48(f), and keeps TX_BUF at its length (R40, R220). -/
theorem txInv_beginFrame {s : State} (h : TxInv s.cfg s.tx) {payload : List Byte} (hfits : payload.length + 3 ≤ s.cfg.txBufBytes) :
    TxInv s.cfg (beginFrame payload s).tx := by
  obtain ⟨-, -, hpending, hbuf⟩ := h
  obtain ⟨hmin, hmax⟩ := frameLen_bounds s.inp.txLenDraw (Nat.le_add_left 3 payload.length)
  refine ⟨nofun, fun _ => ⟨hmin, hmax.trans hfits, lt_of_lt_of_le (by decide : 0 < 3) hmin⟩, hpending, ?_⟩
  exact (loadFrame_buf_length payload s (hbuf ▸ hfits)).trans hbuf

/-- A duty written to DUTY keeps R48(g) if it is at most TIMER_TOP (R182). -/
theorem pwmInv_setDuty {s : State} (h : PwmInv s.cfg s.pwm) {d : Half} (hd : d.toNat ≤ s.cfg.timerTop) (k : Nat) :
    PwmInv s.cfg (setDuty k d s).pwm := by
  obtain ⟨hduty, hcnt⟩ := h
  refine ⟨fun c hc => ⟨?_, (hduty c hc).2⟩, hcnt⟩
  by_cases hk : c.val = k
  · subst hk
    rw [setDuty_duty_same]
    exact hd
  · rw [setDuty_duty_ne hk]
    exact (hduty c hc).1

/-- What a dispatch operation does keeps the invariant. -/
theorem PortEffect.keeps_inv {s t : State} {i : Instr} (heffect : PortEffect s i t) (h : Inv s) : Inv t := by
  obtain ⟨-, -, -, -, htop, -, -, -, -, -, -, hroom⟩ := valid_bounds h.cfg
  obtain ⟨-, -, -, -, -, hcap, -⟩ := valid_fixed h.cfg
  cases heffect with
  | answer => exact inv_of_registers h rfl rfl rfl rfl ⟨rfl, rfl⟩ rfl
  | sendRefused => exact inv_of_registers h rfl rfl rfl rfl ⟨rfl, rfl⟩ rfl
  | setpwmFailed => exact inv_of_registers h (by simp) (by simp) (by simp) (by simp) (by simp) (by simp)
  | popped a b h0 hh =>
    have hcount := Queue.popped_count_toNat s.cfg h0
    have hhead := Queue.popped_head_toNat hcap s.q
    have hmax := h.queue.1
    refine ⟨h.cfg, h.rx, ?_, h.pwm, h.tach, h.tx⟩
    change (s.q.popped s.cfg).count.toNat ≤ s.cfg.queueCap ∧ (s.q.popped s.cfg).head.toNat < s.cfg.queueCap
    omega
  | dutySet c p hc hp => exact ⟨h.cfg, h.rx, h.queue, pwmInv_setDuty h.pwm (dutyOf_le htop _) _, h.tach, h.tx⟩
  | windowClosed a b he =>
    refine ⟨h.cfg, h.rx, h.queue, h.pwm, fun c hc => ?_, h.tx⟩
    obtain ⟨hpulse, hrpm, -⟩ := closeWindow_inactive (s := s) hc (elapsed s s.tach.windowStart)
    rw [respond_tach, hpulse, hrpm]
    exact h.tach c hc
  | sent n b hn => exact ⟨h.cfg, h.rx, h.queue, h.pwm, h.tach, txInv_beginFrame h.tx (by rw [payloadLanes_length]; omega)⟩

/-- Every dispatch operation goes on from a state that meets the invariant (R48(e), (g)). -/
theorem exec_port_next {i : Instr} {s : State} (hi : i.isRequest = false) (h : Inv s) : ∃ t, exec i s = .next t := by
  cases i with
  | nop a b => exact ⟨_, rfl⟩
  | qpop a b =>
    obtain ⟨q, hexec, -⟩ := exec_qpop h.cfg h.queue a b
    exact ⟨_, hexec⟩
  | setpwm c p =>
    by_cases hbad : s.cfg.fanCount ≤ c.toNat ∨ 100 < p.toNat
    · exact ⟨_, exec_setpwm_bad hbad⟩
    · exact ⟨_, exec_setpwm_ok (by omega) (by omega)⟩
  | getpwm c b =>
    by_cases hc : s.cfg.fanCount ≤ c.toNat
    · exact ⟨_, exec_getpwm_inactive hc b⟩
    · obtain ⟨k, rfl, hk⟩ := exists_fan h.cfg (not_le.mp hc)
      exact ⟨_, exec_getpwm_active hk (h.pwm.1 k hk).1 b⟩
  | getrpm c b =>
    by_cases hc : s.cfg.fanCount ≤ c.toNat
    · exact ⟨_, exec_getrpm_inactive hc b⟩
    · obtain ⟨k, rfl, hk⟩ := exists_fan h.cfg (not_le.mp hc)
      exact ⟨_, exec_getrpm_active hk b⟩
  | update a b =>
    by_cases hdue : s.cfg.rpmWindowMs ≤ elapsed s s.tach.windowStart
    · exact ⟨_, exec_update_due hdue a b⟩
    · exact ⟨_, exec_update_early (not_le.mp hdue) a b⟩
  | send n b =>
    by_cases hn : s.cfg.txPayloadMax < n.toNat
    · exact ⟨_, exec_send_overflow hn b⟩
    · cases hbusy : senderBusy s with
      | true => exact ⟨_, exec_send_busy (not_lt.mp hn) hbusy b⟩
      | false => exact ⟨_, exec_send_ok (not_lt.mp hn) hbusy b⟩
  | _ => cases hi

/-- Phase P4 goes on and keeps the invariant. -/
theorem dispatch_keeps_inv {s : State} (h : Inv s) :
    ∃ t, runDecoded (dispatchFetch s).2 (dispatchFetch s).1 = .next t ∧ Inv t := by
  rcases dispatchFetch_cases s with ⟨-, hd⟩ | ⟨-, i, hi, hd⟩ | ⟨-, -, hd⟩
  · rw [hd]
    exact ⟨s, rfl, h⟩
  · rw [hd]
    obtain ⟨t, ht⟩ := exec_port_next (decodeWord_isPort hi) h
    exact ⟨t, ht, (exec_port (decodeWord_isPort hi) ht).keeps_inv h⟩
  · rw [hd]
    exact ⟨_, rfl, inv_of_registers h rfl rfl rfl rfl ⟨rfl, rfl⟩ rfl⟩

/-! ## The phases after the dispatch port -/

/-- Phase P5 appends only while there is room (R48(e), R170). -/
theorem pushPhase_keeps_inv {s : State} (h : Inv s) : Inv (pushPhase s) := by
  obtain ⟨-, -, -, -, -, hcap, -⟩ := valid_fixed h.cfg
  rcases pushPhase_cases s with ⟨-, hp⟩ | ⟨rec, -, ⟨hroom, hp⟩ | ⟨-, hp⟩⟩
  · rw [hp]
    exact inv_of_registers h rfl rfl rfl rfl ⟨rfl, rfl⟩ rfl
  · rw [hp]
    refine ⟨h.cfg, h.rx, ⟨?_, h.queue.2⟩, h.pwm, h.tach, h.tx⟩
    change (s.q.count + 1).toNat ≤ s.cfg.queueCap
    bv_omega
  · rw [hp]
    exact inv_of_registers h rfl rfl rfl rfl ⟨rfl, rfl⟩ rfl

/-- Phase P6 counts edges of active channels only (R47, R201). -/
theorem countPhase_keeps_inv {s : State} (h : Inv s) (hedge : ∀ c : Fin Extent.fans, s.wires.edge[c] = true → c.val < s.cfg.fanCount) :
    Inv (countPhase s) := by
  refine ⟨h.cfg, h.rx, h.queue, h.pwm, fun c hc => ?_, h.tx⟩
  have hnone : s.wires.edge[c] = false := Bool.eq_false_iff.mpr fun he => absurd (hedge c he) (not_lt.mpr hc)
  obtain ⟨hpulse, hrpm⟩ := h.tach c hc
  refine ⟨?_, hrpm⟩
  simp only [countPhase, perFan_get, hnone, Bool.false_and, Bool.false_eq_true, if_false, hpulse]

/-- The sender phase keeps R48(a), (f) and (i) (R224 to R228). -/
theorem senderPhase_txInv {s t : State} (hv : s.cfg.valid = true) (hs : senderPhase s = .next t) (h : TxInv s.cfg s.tx) :
    TxInv s.cfg t.tx := by
  obtain ⟨-, -, -, -, -, -, -, -, hroom, -⟩ := valid_bounds hv
  have hsettled : TxInv s.cfg (endSpacing (startProbe s)).tx := by
    rcases endSpacing_startProbe_cases s with ⟨-, howed, hbegun⟩ | ⟨-, -, -, hended⟩ | ⟨hsame, -, -⟩
    · obtain ⟨hstate, hemit, hpending, hbuf⟩ := txInv_beginFrame h (payload := probePayload s.cfg) (by change 4 + 3 ≤ _; omega)
      rw [hbegun]
      refine ⟨hstate, hemit, ?_, hbuf⟩
      have hmax := h.2.2.1
      have hpred := probePending_pred_toNat howed
      change (s.tx.probePending - 1).toNat ≤ s.cfg.probePendingMax
      omega
    · rw [hended]
      exact ⟨nofun, nofun, h.2.2⟩
    · rw [hsame]
      exact h
  obtain ⟨u, rfl, -, ⟨he, hlt, -, rfl⟩ | ⟨-, rfl⟩⟩ := senderPhase_cases hs
  · obtain ⟨-, hemit, hpending, hbuf⟩ := hsettled
    obtain ⟨hmin, hmax, -⟩ := hemit he
    have hone := emitByte_emitsOne he hlt
    rw [showBusy_tx, TxInv, hone.len, hone.owed, hone.buf]
    rcases hone.progress with ⟨hstate, hidx⟩ | ⟨hstate, -⟩
    · exact ⟨by simp [hstate], fun _ => ⟨hmin, hmax, hone.len ▸ hidx⟩, hpending, hbuf⟩
    · exact ⟨by simp [hstate], by simp [hstate], hpending, hbuf⟩
  · exact hsettled

/-- The sender phase goes on and keeps the invariant. -/
theorem senderPhase_keeps_inv {s : State} (h : Inv s) : ∃ t, senderPhase s = .next t ∧ Inv t := by
  obtain ⟨t, ht⟩ := senderPhase_next h.tx
  obtain ⟨hcfg, -, hrx, hq, hpwm, htach, -⟩ := senderPhase_keeps ht
  refine ⟨t, ht, ?_⟩
  have htx := senderPhase_txInv h.cfg ht h.tx
  constructor
  · rw [hcfg]; exact h.cfg
  · rw [hcfg, hrx]; exact h.rx
  · rw [hcfg, hq]; exact h.queue
  · rw [hcfg, hpwm]; exact h.pwm
  · rw [hcfg, htach]; exact h.tach
  · rw [hcfg]; exact htx

/-- The count keeps R48(g) and (h): it loads only duties within TIMER_TOP, and turns at both ends (R185, R186). -/
theorem pwmPhase_keeps_inv {s : State} (h : Inv s) : Inv (pwmPhase s) := by
  obtain ⟨p, rfl, hduty, hturnDown, hup, hturnUp, hdown⟩ := pwmCounterRunsUpAndDown s h.cfg h.pwm
  obtain ⟨-, -, -, hlow, -⟩ := valid_bounds h.cfg
  obtain ⟨hduties, hcnt⟩ := h.pwm
  refine ⟨h.cfg, h.rx, h.queue, ?_, h.tach, h.tx⟩
  have hkept : (pwmPhase s).pwm.dutyActive = s.pwm.dutyActive → ∀ c : Fin Extent.fans, c.val < s.cfg.fanCount →
      (pwmPhase s).pwm.duty[c].toNat ≤ s.cfg.timerTop ∧ (pwmPhase s).pwm.dutyActive[c].toNat ≤ s.cfg.timerTop := by
    intro hactive
    rw [hactive, hduty]
    exact hduties
  rw [pwmPhase_cfg]
  cases hdir : s.pwm.dir with
  | up =>
    rw [hdir] at hcnt
    by_cases hlast : s.pwm.cnt.toNat + 1 = s.cfg.timerTop
    · obtain ⟨hc, hd, hactive⟩ := hturnDown hdir hlast
      refine ⟨fun c hfan => ?_, by rw [hd]; exact ⟨by omega, by omega⟩⟩
      rw [hduty, hactive c, if_pos hfan]
      exact ⟨(hduties c hfan).1, (hduties c hfan).1⟩
    · obtain ⟨hc, hd, hactive⟩ := hup hdir hlast
      exact ⟨hkept hactive, by rw [hd]; change _ < _; omega⟩
  | down =>
    rw [hdir] at hcnt
    by_cases hlast : s.pwm.cnt.toNat = 1
    · obtain ⟨hc, hd, hactive⟩ := hturnUp hdir hlast
      exact ⟨hkept hactive, by rw [hd]; change _ < _; omega⟩
    · obtain ⟨hc, hd, hactive⟩ := hdown hdir hlast
      exact ⟨hkept hactive, by rw [hd]; change 1 ≤ _ ∧ _; omega⟩

/-! ## A step -/

/-- Settles O44: a reset step by `resetPhase_inv`, and any other phase by phase. -/
theorem stepGoesOnAndKeepsTheInvariant : Obligations.StepGoesOnAndKeepsTheInvariant := by
  intro s h
  cases hr : (nextInputs s).rst with
  | true => exact ⟨_, step_reset h.cfg hr, resetPhase_inv h.cfg⟩
  | false =>
    obtain ⟨u, i, hreceive, hu⟩ := receivePhase_keeps_inv (frontPhases_keeps_inv h)
    obtain ⟨rx, flag, hu', -, -, hrequest⟩ := receivePhase_cases hreceive
    obtain ⟨a, hrun, ha⟩ : ∃ a, runDecoded i u = .next a ∧ Inv a := by
      cases i with
      | none => exact ⟨u, rfl, hu⟩
      | some j => exact exec_request_keeps_inv (hrequest j rfl) hu
    obtain ⟨b, hdispatch, hb⟩ := dispatch_keeps_inv ha
    have huntouched : Untouched u b :=
      (runDecoded_untouched hrun).trans ((dispatchFetch_untouched a).trans (runDecoded_untouched hdispatch))
    have hcounted : Inv (countPhase (pushPhase b)) := by
      refine countPhase_keeps_inv (pushPhase_keeps_inv hb) fun c hedge => ?_
      rw [pushPhase_edge, huntouched.edge, hu'] at hedge
      rw [pushPhase_cfg, huntouched.cfg, hu']
      simpa using ((frontPhases_edge s c).mp hedge).1
    obtain ⟨c, hsend, hc⟩ := senderPhase_keeps_inv hcounted
    exact ⟨pwmPhase c, Trace.step hr ⟨h.cfg, hreceive, hrun, hdispatch, hsend, rfl⟩, pwmPhase_keeps_inv hc⟩

end Sys2Proof.Machine
end

section
/-! The whole machine (00_scope.md R10, R11): how a step is composed, where it stops, and a probe beside a SEND (R287, R291). -/

namespace Sys2Proof.Machine

open Sys2Proof.Claims Sys2Proof.Safety

/-! ## The phases of a step -/

/-- A step outside reset runs the receiver's instruction and goes on with the dispatch port (R10). -/
theorem step_run {s : State} (hv : s.cfg.valid = true) (hr : (nextInputs s).rst = false) :
    step s = andThen (receivePhase (frontPhases s)) fun r => andThen (runDecoded r.2 r.1) dispatchOnward := by
  unfold step
  rw [if_pos hv, if_neg (by simp [hr])]

/-- Without a word phase P4 does nothing (R101). -/
theorem dispatchFetch_none {s : State} (h : s.inp.dpValid = false) : dispatchFetch s = (s, none) := by
  unfold dispatchFetch
  rw [if_neg (by simp [h])]

/-- Settles O49: the phases are `step`'s own, the last byte of a frame is `rxPayload_room`'s, and a legal word is
`dispatchFetch_legal`'s. -/
theorem stepRunsTheDecodedInstructions : Obligations.StepRunsTheDecodedInstructions := by
  refine ⟨fun _ => rfl, fun s hv hr => ⟨fun t ht => ?_, fun t i ht => ?_⟩, fun s i hv hstate hb hlast hroom htime hdecode => ?_,
    fun s hnone => ?_, fun s i hvalid hword => ?_, fun _ => rfl⟩
  · rw [step_run hv hr, ht]
    rfl
  · rw [step_run hv hr, ht]
    rfl
  · rw [receivePhase_byte (by simp [hstate]) hb, stallCheck_inTime htime, rxByte_awaitPayload hstate, rxPayload_room hv hroom,
      if_pos hlast]
    exact rxTrailer_decoded hdecode
  · rw [dispatchOnward, dispatchFetch_none hnone]
    rfl
  · rw [dispatchOnward, dispatchFetch_legal hvalid hword]
    rfl

/-! ## Refusals -/

/-- The receiver is never refused: it goes on or faults (R11). -/
theorem receivePhase_ne_refused (s : State) (r : Refusal) : receivePhase s ≠ .refused r := by
  have htrailer : ∀ s : State, rxTrailer s ≠ .refused r := by
    intro s
    unfold rxTrailer
    split <;> exact nofun
  have hpayload : ∀ (b : Byte) (s : State), rxPayload b s ≠ .refused r := by
    intro b s
    unfold rxPayload
    split
    · dsimp only
      split
      · exact htrailer _
      · exact nofun
    · exact nofun
  unfold receivePhase
  split
  · exact nofun
  · dsimp only
    split
    · unfold rxByte
      split
      · exact nofun
      · exact nofun
      · exact hpayload _ _
      · exact nofun
    · exact nofun

/-- Every instruction has its meaning: none is refused (R11). -/
theorem exec_ne_refused (i : Instr) (s : State) (r : Refusal) : exec i s ≠ .refused r := by
  cases i with
  | qpop a b =>
    simp only [exec, execQpop]
    split
    · exact nofun
    · split <;> exact nofun
  | setpwm c p =>
    simp only [exec, execSetpwm]
    split <;> exact nofun
  | getpwm c b =>
    simp only [exec, execGetpwm]
    split
    · split <;> exact nofun
    · exact nofun
  | getrpm c b =>
    simp only [exec, execGetrpm]
    split <;> exact nofun
  | update a b =>
    simp only [exec, execUpdate]
    split <;> exact nofun
  | send n b =>
    simp only [exec, execSend]
    split
    · exact nofun
    · split <;> exact nofun
  | _ => exact nofun

theorem runDecoded_ne_refused (i : Option Instr) (s : State) (r : Refusal) : runDecoded i s ≠ .refused r := by
  cases i with
  | none => exact nofun
  | some i => exact exec_ne_refused i s r

/-- The sender is never refused: it goes on or faults (R11). -/
theorem senderPhase_ne_refused (s : State) (r : Refusal) : senderPhase s ≠ .refused r := by
  unfold senderPhase
  split
  · exact nofun
  · dsimp only
    split
    · split <;> exact nofun
    · exact nofun

/-- A step under a legal configuration is not refused: no phase is. -/
theorem step_ne_refused {s : State} (hv : s.cfg.valid = true) (r : Refusal) : step s ≠ .refused r := by
  cases hr : (nextInputs s).rst with
  | true =>
    rw [step_reset hv hr]
    exact nofun
  | false =>
    rw [step_run hv hr]
    intro h
    rcases andThen_eq_refused.mp h with h | ⟨u, -, h⟩
    · exact receivePhase_ne_refused _ _ h
    rcases andThen_eq_refused.mp h with h | ⟨a, -, h⟩
    · exact runDecoded_ne_refused _ _ _ h
    rcases andThen_eq_refused.mp h with h | ⟨b, -, h⟩
    · exact runDecoded_ne_refused _ _ _ h
    rcases andThen_eq_refused.mp h with h | ⟨c, -, h⟩
    · exact senderPhase_ne_refused _ _ h
    · cases h

/-- Settles O45: the test of the configuration comes first, and nothing after it refuses (`step_ne_refused`). -/
theorem onlyAnIllegalConfigurationIsRefused : Obligations.OnlyAnIllegalConfigurationIsRefused := by
  intro s r
  cases hv : s.cfg.valid with
  | true => exact ⟨fun h => absurd h (step_ne_refused hv r), nofun⟩
  | false =>
    have hrefused : step s = .refused .badConfiguration := by
      unfold step
      rw [if_neg (by simp [hv])]
    rw [hrefused]
    exact ⟨fun h => by cases h; exact ⟨rfl, rfl⟩, fun ⟨_, h⟩ => h ▸ rfl⟩

/-! ## Faults -/

/-- Settles O46: each unit tests for its unreachable states before it goes on (U7, U8). -/
theorem unreachableStatesFault : Obligations.UnreachableStatesFault := by
  refine ⟨fun s hv hr hstate => ?_, fun s hstate hb htime hfull => ?_, fun s e he hdecode => ?_, fun s hstate => if_pos hstate,
    fun s hstate hidx => ?_, fun s a b h0 hhead => ?_, fun s c b hc hduty => ?_⟩
  · rw [step_run hv hr, receivePhase, if_pos (by simpa using hstate)]
    rfl
  · rw [receivePhase_byte (by simp [hstate]) hb, stallCheck_inTime htime, rxByte_awaitPayload hstate]
    exact if_neg (not_lt.mpr hfull)
  · unfold rxTrailer
    rw [hdecode]
    simp only [List.mem_cons, List.not_mem_nil, or_false] at he
    rcases he with rfl | rfl | rfl <;> rfl
  · have hsame := endSpacing_startProbe_emit hstate
    unfold senderPhase
    rw [if_neg (by simp [hstate]), hsame]
    exact (if_pos hstate).trans (if_neg fun h => absurd h.1 (not_lt.mpr hidx))
  · exact (if_neg h0).trans (if_neg (not_lt.mpr hhead))
  · have hread : rdAt s.pwm.duty c.val 0 = s.pwm.duty[c] := rdAt_of_lt _ c.isLt 0
    simp only [exec, execGetpwm, fan_toNat, hread, if_pos (channelActive_iff.mpr hc), if_neg (not_le.mpr hduty)]

/-! ## A probe beside a SEND -/

/-- After a decoded ProbeDevice a reply is owed, where R44's 8 bits hold the count (R147). -/
theorem probeRequest_owes {s : State} (h : Inv s) (hfits : s.tx.probePending.toNat < 255 ∨ s.cfg.probePendingMax ≤ 255) :
    (probeRequest s).tx.probePending ≠ 0 := by
  obtain ⟨-, -, -, -, -, -, -, -, -, -, hmax, -⟩ := valid_bounds h.cfg
  obtain ⟨-, -, hpending, -⟩ := h.tx
  intro hzero
  have hcount := congrArg BitVec.toNat hzero
  by_cases hfull : s.tx.probePending.toNat = s.cfg.probePendingMax
  · rw [probeRequest_full hfull, raise_tx] at hcount
    change _ = 0 at hcount
    omega
  · rw [probeRequest_room hfull] at hcount
    change (oneMorePending _ s.tx.probePending).toNat = 0 at hcount
    rw [oneMorePending_toNat _ (by omega)] at hcount
    omega

/-- Settles O41: the probe leaves a reply owed (`probeRequest_owes`), so the SEND is refused (`exec_send_busy`); what is being
emitted goes on (O39), and otherwise the sender phase begins the reply (`senderPhase_owed`). -/
theorem probeBlocksTheSendOfItsStep : Obligations.ProbeBlocksTheSendOfItsStep := by
  intro s n b hinv hr ⟨u', hdecodes⟩ hsend hfits hn
  obtain ⟨t, hstep, -⟩ := stepGoesOnAndKeepsTheInvariant s hinv
  obtain ⟨u, i, a, b', c, T⟩ := trace_of_step hr hstep
  cases T.receive.symm.trans hdecodes
  have howed : a.tx.probePending ≠ 0 := by
    obtain ⟨_, _, hkeeps, hu⟩ := receivePhase_keeps_inv (frontPhases_keeps_inv hinv)
    cases T.receive.symm.trans hkeeps
    obtain ⟨rx, flag, rfl, -, -, -⟩ := receivePhase_cases T.receive
    cases T.request
    exact probeRequest_owes (inv_of_registers hu rfl rfl rfl rfl ⟨rfl, rfl⟩ rfl) (by simpa using hfits)
  have hb := T.exec_dispatched hsend
  rw [exec_send_busy (by rw [T.afterRequest.cfg]; exact hn) (senderBusy_eq_true.mpr (.inr howed))] at hb
  cases hb
  obtain ⟨-, hstatus, -⟩ := T.afterStep.response
  refine ⟨t, hstep, hstatus, ?_, fun he => ?_, fun he => ?_⟩
  · rw [T.afterStep.out]
    exact (pushPhase_flag (by decide)).trans ((raise_flag .sendBusy a 7).trans (by simp [ErrKind.bit]))
  · obtain ⟨hbuf, hlen, -⟩ := nothingInterruptsAnEmission s t hinv hr hstep he
    exact ⟨hbuf, hlen⟩
  · obtain ⟨v, hv, htx, hcfg, -, -, ht, -⟩ := T.sender
    have hstate : v.tx.state = s.tx.state := (congrArg Tx.state htx).trans T.afterRequest.tx_state
    have hfree : v.tx.state = .idle ∨ v.tx.state = .space := by
      rw [hstate]
      cases h : s.tx.state with
      | idle => exact .inl rfl
      | emit => exact absurd h he
      | space => exact .inr rfl
      | reserved => exact absurd h hinv.tx.1
    rw [senderPhase_owed hfree (by rw [htx]; exact howed)] at hv
    cases hv
    rw [ht, ← hcfg]
    exact ⟨rfl, rfl, List.take_left' (replyFrame_length _ _)⟩

end Sys2Proof.Machine
end

section
/-! The block closed with its dispatch loop (46_dispatch_contract.md R240 to R250): what the loop drives, when it sends, and what it
makes of the block's answers. -/

namespace Sys2Proof.Machine

open Sys2Proof.Claims Sys2Proof.Safety

/-! ## The words the loop drives -/

/-- The instruction of the word the loop drives. -/
def LoopState.instr : LoopState → Instr
  | .poll => .qpop 0 0
  | .update | .await _ => .update 0 0
  | .rpmFirst => .getrpm 0 0
  | .rpmSecond _ => .getrpm 1 0
  | .getPwm channel => .getpwm channel 0
  | .setPwm channel percent => .setpwm channel percent
  | .reply payload => .send (BitVec.ofNat 8 payload.length) 0

/-- Every word the loop drives is legal, and is its instruction's (R250(e)). -/
theorem LoopState.decodeWord_word (l : LoopState) : decodeWord l.word = .ok l.instr := by
  cases l with
  | poll => exact decodeWord_dpWordOf 1 0 0 (by decide)
  | update => exact decodeWord_dpWordOf 5 0 0 (by decide)
  | rpmFirst => exact decodeWord_dpWordOf 4 0 0 (by decide)
  | rpmSecond r0 => exact decodeWord_dpWordOf 4 1 0 (by decide)
  | getPwm channel => exact decodeWord_dpWordOf 3 channel 0 (by decide)
  | setPwm channel percent => exact decodeWord_dpWordOf 2 channel percent (by decide)
  | await payload => exact decodeWord_dpWordOf 5 0 0 (by decide)
  | reply payload => exact decodeWord_dpWordOf 6 (BitVec.ofNat 8 payload.length) 0 (by decide)

/-- The block's next step carries the loop's instruction (R250(a)). -/
theorem driveLoop_dispatches (sys : System) : DispatchesNext (driveLoop sys) sys.loop.instr :=
  ⟨rfl, sys.loop.decodeWord_word⟩

/-- A reply of at most 10 bytes is sent with its own length, which fits the bus of every legal configuration (R250(d)). -/
theorem send_fits {cfg : Config} (hv : cfg.valid = true) {l : LoopState} (hl : LoopFits l) {n b : Byte} (h : l.instr = .send n b) :
    n.toNat ≤ cfg.txPayloadMax := by
  obtain ⟨-, -, -, -, -, -, -, -, hmin, -, -, hroom⟩ := valid_bounds hv
  cases l with
  | reply payload =>
    cases h
    have hten := hl payload (.inr rfl)
    rw [BitVec.toNat_ofNat]
    omega
  | _ => cases h

/-! ## One step of both -/

/-- A step of both is a step of the block with the loop's word, and the loop's next state from the outputs, or from the start in a
reset step. -/
theorem systemStep_next {co : Collaborators} {sys sys' : System} (h : systemStep co sys = .next sys') :
    step (driveLoop sys) = .next sys'.block ∧
    sys'.loop = if (nextInputs sys.block).rst then .poll else sys.loop.next sys.block.cfg sys'.block.out co := by
  obtain ⟨t, ht, hsys⟩ := andThen_eq_next.mp h
  cases hsys
  refine ⟨ht, ?_⟩
  dsimp only
  rw [step_inp ht, noStepChangesTheConfiguration _ _ ht]
  rfl

/-- A step of both outside reset: the loop's instruction runs in `a`, whose queue, PWM unit and RPM registers are still those the
step began with, and the block shows its response to the loop. -/
structure LoopTurn (co : Collaborators) (sys sys' : System) (a b : State) : Prop where
  run : exec sys.loop.instr a = .next b
  cfg : a.cfg = sys.block.cfg
  q : a.q = sys.block.q
  pwm : a.pwm = sys.block.pwm
  lastRpm : a.tach.lastRpm = sys.block.tach.lastRpm
  status : sys'.block.out.dpStatus = b.out.dpStatus
  data : sys'.block.out.dpData = b.out.dpData
  loop : sys'.loop = sys.loop.next sys.block.cfg sys'.block.out co

theorem loopTurn_of_systemStep {co : Collaborators} {sys sys' : System} (hr : (nextInputs sys.block).rst = false)
    (h : systemStep co sys = .next sys') : ∃ a b, LoopTurn co sys sys' a b := by
  obtain ⟨hstep, hloop⟩ := systemStep_next h
  obtain ⟨u, i, a, b, c, T⟩ := trace_of_step (s := driveLoop sys) hr hstep
  obtain ⟨-, hstatus, hdata⟩ := T.afterStep.response
  rw [if_neg (by simp [hr])] at hloop
  refine ⟨a, b, T.exec_dispatched (driveLoop_dispatches sys), T.afterRequest.cfg, T.afterRequest.q, T.afterRequest.pwm, ?_,
    hstatus, hdata, hloop⟩
  rw [T.afterRequest.tach]
  rfl

/-! ## The loop's next state -/

theorem owes_sendWhenIdle (o : Outputs) (payload : List Byte) : Owes (sendWhenIdle o payload) payload := by
  unfold sendWhenIdle
  split
  · exact .inl rfl
  · exact .inr rfl

/-- A reply is about to be sent only after a step that showed `tx_busy` = 0 (R249). -/
theorem sendWhenIdle_eq_reply {o : Outputs} {payload payload' : List Byte} (h : sendWhenIdle o payload = .reply payload') :
    o.txBusy = false := by
  unfold sendWhenIdle at h
  split at h
  · cases h
  · next hbusy => simpa using hbusy

/-- What the loop can be about to do next: an operation that owes no reply yet, or a reply of at most 10 bytes, sent only where
`tx_busy` is 0. -/
def GoodNext (o : Outputs) (l : LoopState) : Prop := LoopFits l ∧ ∀ payload, l = .reply payload → o.txBusy = false

theorem goodNext_operation {o : Outputs} {l : LoopState} (h : ∀ payload, ¬Owes l payload) : GoodNext o l :=
  ⟨fun payload hp => absurd hp (h payload), fun payload hp => absurd (.inr hp) (h payload)⟩

theorem goodNext_await {o : Outputs} {payload : List Byte} (h : payload.length ≤ 10) : GoodNext o (.await payload) :=
  ⟨fun payload' hp => by rcases hp with hp | hp <;> cases hp; exact h, nofun⟩

theorem goodNext_sendWhenIdle {o : Outputs} {payload : List Byte} (h : payload.length ≤ 10) :
    GoodNext o (sendWhenIdle o payload) := by
  refine ⟨fun payload' hp => ?_, fun payload' hp => sendWhenIdle_eq_reply hp⟩
  unfold sendWhenIdle at hp
  split at hp <;> rcases hp with hp | hp <;> cases hp <;> exact h

/-- Every reply that a popped record asks for at once fits (R242, R246, R247). -/
theorem goodNext_serveRecord (cfg : Config) (o : Outputs) (co : Collaborators) : GoodNext o (serveRecord cfg o co) := by
  unfold serveRecord
  split
  · exact goodNext_sendWhenIdle (by simp [replyGetTemp, bigEndian, List.range_succ])
  · exact goodNext_operation nofun
  · exact goodNext_operation nofun
  · exact goodNext_operation nofun
  · exact goodNext_sendWhenIdle (by simp [replyEeReadByte])
  · exact goodNext_sendWhenIdle (by unfold replyEeWriteByte; split <;> simp)
  · exact goodNext_operation nofun

/-- The loop keeps its replies within 10 bytes and sends only where `tx_busy` was 0 (R249, R250(d)). -/
theorem goodNext_next {l : LoopState} (hl : LoopFits l) (cfg : Config) (o : Outputs) (co : Collaborators) :
    GoodNext o (l.next cfg o co) := by
  cases l with
  | poll =>
    simp only [LoopState.next]
    split
    · exact goodNext_serveRecord cfg o co
    · exact goodNext_operation nofun
  | update => exact goodNext_operation nofun
  | rpmFirst => exact goodNext_operation nofun
  | rpmSecond r0 => exact goodNext_sendWhenIdle (by simp [replyGetFanRpm, bigEndian])
  | getPwm channel => exact goodNext_sendWhenIdle (by simp [replyGetFanPwm])
  | setPwm channel percent => exact goodNext_sendWhenIdle (by unfold replySetFanPwm; split <;> simp)
  | await payload => exact goodNext_sendWhenIdle (hl payload (.inl rfl))
  | reply payload =>
    simp only [LoopState.next]
    split
    · exact goodNext_operation nofun
    · exact goodNext_await (hl payload (.inr rfl))

/-! ## What the loop never causes -/

/-- A step whose word is legal, and fits if it is a SEND, raises neither ILLEGAL_OP nor SEND_OVERFLOW (R106, R222). -/
theorem Trace.legal_flags {s u a b c t : State} {i : Option Instr} (T : Trace s u i a b c t) {j : Instr} (hj : DispatchesNext s j)
    (hsend : ∀ n m, j = .send n m → n.toNat ≤ s.cfg.txPayloadMax) :
    t.out.errFlags.getLsbD 10 = false ∧ t.out.errFlags.getLsbD 6 = false := by
  have heffect : PortEffect a j b := exec_port (decodeWord_isPort hj.2) (T.exec_dispatched hj)
  have hevents : ∀ flags ∈ receiverEvents, flags.getLsbD 10 = false ∧ flags.getLsbD 6 = false := by simp [receiverEvents]
  rw [← T.afterRequest.cfg] at hsend
  rw [T.afterStep.out]
  refine ⟨?_, ?_⟩
  · have hport := heffect.flag (n := 10) (by decide) fun h => absurd h (by decide)
    exact (pushPhase_flag (by decide)).trans (hport.trans (hevents _ T.requested.2).1)
  · have hport := heffect.flag (n := 6) (by decide) fun _ => hsend
    exact (pushPhase_flag (by decide)).trans (hport.trans (hevents _ T.requested.2).2)

/-- UPDATE always responds OK (R202). -/
theorem exec_update_ok {s t : State} {a b : Byte} (h : exec (.update a b) s = .next t) : t.out.dpStatus = .ok := by
  by_cases hdue : s.cfg.rpmWindowMs ≤ elapsed s s.tach.windowStart
  · rw [exec_update_due hdue] at h
    cases h
    rfl
  · rw [exec_update_early (not_le.mp hdue)] at h
    cases h
    rfl

/-- Settles O56: the loop's next state is good (`goodNext_next`), its words are legal and its SENDs fit (`Trace.legal_flags`), and its
UPDATEs respond OK (`exec_update_ok`). In a reset step no flag is raised, and the loop polls. -/
theorem dispatchLoopWaitsAndDrivesLegalWords : Obligations.DispatchLoopWaitsAndDrivesLegalWords := by
  intro co sys sys' hv hfits h
  obtain ⟨hstep, hloop⟩ := systemStep_next h
  cases hr : (nextInputs sys.block).rst with
  | true =>
    rw [hr, if_pos rfl] at hloop
    obtain ⟨hpoll, hreply⟩ : GoodNext sys'.block.out sys'.loop := hloop ▸ goodNext_operation nofun
    have hflags : sys'.block.out.errFlags = 0 := by
      rw [eq_resetPhase_of_step (s := driveLoop sys) hr hstep]
      rfl
    rw [hflags]
    exact ⟨hpoll, rfl, rfl, hreply, nofun⟩
  | false =>
    obtain ⟨u, i, a, b, c, T⟩ := trace_of_step (s := driveLoop sys) hr hstep
    obtain ⟨a', b', turn⟩ := loopTurn_of_systemStep hr h
    obtain ⟨hnext, hreply⟩ : GoodNext sys'.block.out sys'.loop := turn.loop ▸ goodNext_next hfits _ _ co
    obtain ⟨hillegal, hoverflow⟩ := T.legal_flags (driveLoop_dispatches sys) fun n m => send_fits hv hfits
    refine ⟨hnext, hillegal, hoverflow, hreply, fun _ => ⟨?_, fun payload => ⟨fun hl => ?_, fun hl => ?_⟩⟩⟩
    · exact (everyDispatchWordGetsOneResponse.2 (driveLoop sys) sys'.block hr hstep).1
    · have hrun := turn.run
      have hnextLoop := turn.loop
      rw [hl] at hrun hnextLoop ⊢
      exact ⟨rfl, turn.status.trans (exec_update_ok hrun), hnextLoop ▸ owes_sendWhenIdle _ payload⟩
    · have hnextLoop := turn.loop
      rw [hl] at hnextLoop
      exact ⟨fun hok => hnextLoop.trans (if_pos hok), fun hbad => hnextLoop.trans (if_neg hbad)⟩

/-! ## How soon the loop polls and updates -/

/-- A number that falls in every step until it is 0 reaches 0 within as many steps. -/
theorem countdown_reaches_zero {f : Nat → Nat} {n : Nat} (hbound : f 0 ≤ n) (hfalls : ∀ k, k < n → f k ≠ 0 → f (k + 1) < f k) :
    ∃ k, k ≤ n ∧ f k = 0 := by
  by_contra hnever
  have hpositive : ∀ k, k ≤ n → f k ≠ 0 := fun k hk hzero => hnever ⟨k, hk, hzero⟩
  have hleft : ∀ k, k ≤ n → f k + k ≤ n := by
    intro k
    induction k with
    | zero => exact fun _ => hbound
    | succ k ih =>
      intro hk
      have hprev := ih (by omega)
      have hfall := hfalls k (by omega) (hpositive k (by omega))
      omega
  have hlast := hleft n (le_refl n)
  exact hpositive n (le_refl n) (by omega)

/-- How many steps the loop is from an UPDATE at most (R250(c)). -/
def LoopState.untilUpdate : LoopState → Nat
  | .update | .await _ => 0
  | .reply _ => 1
  | .rpmSecond _ | .getPwm _ | .setPwm _ _ => 2
  | .rpmFirst => 3
  | .poll => 4

/-- How many steps the loop is from a QPOP, or from waiting, at most (R250(b)). -/
def LoopState.untilPoll : LoopState → Nat
  | .poll | .await _ => 0
  | .update => 1
  | .reply _ => 2
  | .rpmSecond _ | .getPwm _ | .setPwm _ _ => 3
  | .rpmFirst => 4

theorem untilUpdate_sendWhenIdle (o : Outputs) (payload : List Byte) : (sendWhenIdle o payload).untilUpdate ≤ 1 := by
  unfold sendWhenIdle
  split
  · exact Nat.zero_le 1
  · exact le_refl 1

theorem untilPoll_sendWhenIdle (o : Outputs) (payload : List Byte) : (sendWhenIdle o payload).untilPoll ≤ 2 := by
  unfold sendWhenIdle
  split
  · exact Nat.zero_le 2
  · exact le_refl 2

/-- A popped record leads to an operation, a reply, or an UPDATE: never back to a poll. -/
theorem untilUpdate_serveRecord (cfg : Config) (o : Outputs) (co : Collaborators) : (serveRecord cfg o co).untilUpdate ≤ 3 := by
  have hreply := fun payload => (untilUpdate_sendWhenIdle o payload).trans (by decide : 1 ≤ 3)
  unfold serveRecord
  split
  · exact hreply _
  · exact le_refl 3
  · exact (by decide : 2 ≤ 3)
  · exact (by decide : 2 ≤ 3)
  · exact hreply _
  · exact hreply _
  · exact Nat.zero_le 3

/-- Until it updates, every step of the loop brings it nearer to an UPDATE. -/
theorem untilUpdate_falls {l : LoopState} (h : l.untilUpdate ≠ 0) (cfg : Config) (o : Outputs) (co : Collaborators) :
    (l.next cfg o co).untilUpdate < l.untilUpdate := by
  cases l with
  | poll =>
    simp only [LoopState.next]
    split
    · exact Nat.lt_succ_of_le (untilUpdate_serveRecord cfg o co)
    · exact (by decide : 0 < 4)
  | update => exact absurd rfl h
  | rpmFirst => exact (by decide : 2 < 3)
  | rpmSecond r0 => exact Nat.lt_succ_of_le (untilUpdate_sendWhenIdle o _)
  | getPwm channel => exact Nat.lt_succ_of_le (untilUpdate_sendWhenIdle o _)
  | setPwm channel percent => exact Nat.lt_succ_of_le (untilUpdate_sendWhenIdle o _)
  | await payload => exact absurd rfl h
  | reply payload =>
    simp only [LoopState.next]
    split <;> exact (by decide : 0 < 1)

/-- Until it polls or waits, every step of the loop brings it nearer to a QPOP or to waiting. -/
theorem untilPoll_falls {l : LoopState} (h : l.untilPoll ≠ 0) (cfg : Config) (o : Outputs) (co : Collaborators) :
    (l.next cfg o co).untilPoll < l.untilPoll := by
  cases l with
  | poll => exact absurd rfl h
  | update => exact (by decide : 0 < 1)
  | rpmFirst => exact (by decide : 3 < 4)
  | rpmSecond r0 => exact Nat.lt_succ_of_le (untilPoll_sendWhenIdle o _)
  | getPwm channel => exact Nat.lt_succ_of_le (untilPoll_sendWhenIdle o _)
  | setPwm channel percent => exact Nat.lt_succ_of_le (untilPoll_sendWhenIdle o _)
  | await payload => exact absurd rfl h
  | reply payload =>
    simp only [LoopState.next]
    split
    · exact (by decide : 1 < 2)
    · exact (by decide : 0 < 2)

theorem word_of_untilUpdate {l : LoopState} (h : l.untilUpdate = 0) : l.word = 0x00000005 := by
  cases l with
  | update => rfl
  | await payload => rfl
  | _ => cases h

theorem word_of_untilPoll {l : LoopState} (h : l.untilPoll = 0) : l.word = 0x00000001 ∨ ∃ payload, l = .await payload := by
  cases l with
  | poll => exact .inl rfl
  | await payload => exact .inr ⟨payload, rfl⟩
  | _ => cases h

/-- Settles O57: both distances are at most 4 and fall in every step until they are 0. -/
theorem dispatchLoopKeepsPollingAndUpdating : Obligations.DispatchLoopKeepsPollingAndUpdating := by
  intro co run hrun
  have hnext : ∀ k, k < 4 → ∃ cfg o, (run (k + 1)).loop = (run k).loop.next cfg o (co k) := by
    intro k hk
    obtain ⟨hstep, hr⟩ := hrun k hk
    obtain ⟨a, b, turn⟩ := loopTurn_of_systemStep hr hstep
    exact ⟨_, _, turn.loop⟩
  have hbounds : ∀ l : LoopState, l.untilUpdate ≤ 4 ∧ l.untilPoll ≤ 4 := by
    intro l
    cases l <;> simp [LoopState.untilUpdate, LoopState.untilPoll]
  obtain ⟨k, hk, hupdate⟩ := countdown_reaches_zero (f := fun k => (run k).loop.untilUpdate) (hbounds _).1 fun k hk h => by
    obtain ⟨cfg, o, hl⟩ := hnext k hk
    simp only [hl]
    exact untilUpdate_falls h cfg o (co k)
  obtain ⟨m, hm, hpoll⟩ := countdown_reaches_zero (f := fun k => (run k).loop.untilPoll) (hbounds _).2 fun k hk h => by
    obtain ⟨cfg, o, hl⟩ := hnext k hk
    simp only [hl]
    exact untilPoll_falls h cfg o (co k)
  exact ⟨⟨k, hk, word_of_untilUpdate hupdate⟩, ⟨m, hm, word_of_untilPoll hpoll⟩⟩

/-! ## What the loop makes of the answers -/

/-- A request's record stands for the request (R95, R96). -/
theorem decodeRecord_recordWord {i : Instr} (hi : i.isRequest = true) : decodeRecord (recordWord i) = some i := by
  obtain ⟨t, ht⟩ := exec_request_next hi State.reset
  obtain ⟨rec, hrec, heffect⟩ := exec_request hi ht
  have hshown : t.out.rxCmd = rec := by
    rcases heffect with ⟨-, rfl⟩ | ⟨-, rfl⟩
    · rfl
    · exact (probeRequest_rxCmd _).2
  rw [← (exec_request_showsRecord hi ht).2, hshown]
  exact hrec

/-- From a poll, the loop serves the oldest record, or updates when there is none (R171, R240). -/
theorem LoopTurn.poll {co : Collaborators} {sys sys' : System} {a b : State} (turn : LoopTurn co sys sys' a b)
    (hinv : Inv sys.block) (hl : sys.loop = .poll) :
    (queueContents sys.block.cfg sys.block.q = [] → sys'.loop = .update) ∧
    (∀ i rest, i.isRequest = true → queueContents sys.block.cfg sys.block.q = recordWord i :: rest → ∃ o : Outputs,
      decodeRecord o.dpData = some i ∧ sys'.loop = serveRecord sys.block.cfg o co) := by
  have hrun := turn.run
  have hloop := turn.loop
  rw [hl] at hrun hloop
  obtain ⟨q, hexec, -⟩ := exec_qpop (s := a) (by rw [turn.cfg]; exact hinv.cfg) (by rw [turn.cfg, turn.q]; exact hinv.queue) 0 0
  cases hexec.symm.trans hrun
  have hstatus := turn.status
  have hdata := turn.data
  simp only [turn.cfg, turn.q] at hstatus hdata
  refine ⟨fun hempty => ?_, fun i rest hi hcons => ⟨sys'.block.out, ?_, ?_⟩⟩
  · rw [hempty] at hstatus
    exact hloop.trans (if_neg (by rw [hstatus]; exact nofun))
  · rw [hcons] at hdata
    rw [hdata]
    exact decodeRecord_recordWord hi
  · rw [hcons] at hstatus
    exact hloop.trans (if_pos hstatus)

/-- GETRPM's answer, as the 16 bits the loop keeps of it (R205, R243). -/
theorem exec_getrpm_data {s t : State} {c : Fin Extent.fans} {b : Byte} (h : exec (.getrpm (BitVec.ofNat 8 c.val) b) s = .next t) :
    t.out.dpData.setWidth 16 = rpmOf s c := by
  by_cases hc : c.val < s.cfg.fanCount
  · rw [exec_getrpm_active hc] at h
    cases h
    rw [rpmOf, if_pos hc]
    simp [responded]
  · rw [exec_getrpm_inactive (by rw [fan_toNat]; exact not_lt.mp hc)] at h
    cases h
    rw [rpmOf, if_neg hc]
    rfl

theorem LoopTurn.rpmOf {co : Collaborators} {sys sys' : System} {a b : State} (turn : LoopTurn co sys sys' a b)
    (c : Fin Extent.fans) : rpmOf a c = rpmOf sys.block c := by
  rw [Claims.rpmOf, Claims.rpmOf, turn.cfg, turn.lastRpm]

/-- GETPWM's answer, as the byte the loop keeps of it (R183, R244): R181's map gives at most 100. -/
theorem exec_getpwm_data {s t : State} {channel b : Byte} (hduty : PwmInv s.cfg s.pwm) (h : exec (.getpwm channel b) s = .next t) :
    (∀ c : Fin Extent.fans, c.val = channel.toNat → c.val < s.cfg.fanCount →
      (t.out.dpData.setWidth 8).toNat = (s.cfg.timerTop - s.pwm.duty[c].toNat) * 100 / s.cfg.timerTop) ∧
    (s.cfg.fanCount ≤ channel.toNat → t.out.dpData.setWidth 8 = 0) := by
  refine ⟨fun c hc hactive => ?_, fun hinactive => ?_⟩
  · obtain rfl : channel = BitVec.ofNat 8 c.val := by simp [hc]
    rw [exec_getpwm_active hactive (hduty.1 c hactive).1] at h
    cases h
    have hpercent : mapInv s.cfg.timerTop s.pwm.duty[c].toNat ≤ 100 :=
      Nat.div_le_of_le_mul (Nat.mul_le_mul_right 100 (Nat.sub_le _ _))
    simp only [responded, BitVec.toNat_setWidth, BitVec.toNat_ofNat]
    rw [← mapInv]
    omega
  · rw [exec_getpwm_inactive hinactive] at h
    cases h
    rfl

/-- SETPWM responds OK exactly when both operands are in range (R182). -/
theorem exec_setpwm_status {s t : State} {c p : Byte} (h : exec (.setpwm c p) s = .next t) :
    t.out.dpStatus = .ok ↔ c.toNat < s.cfg.fanCount ∧ p.toNat ≤ 100 := by
  by_cases hgood : c.toNat < s.cfg.fanCount ∧ p.toNat ≤ 100
  · rw [exec_setpwm_ok hgood.1 hgood.2] at h
    cases h
    exact iff_of_true rfl hgood
  · rw [exec_setpwm_bad (by omega)] at h
    cases h
    exact iff_of_false nofun hgood

/-- GetTemp's reply lays out four temperatures, those at or above TEMP_COUNT as 0 (R242). -/
theorem replyGetTemp_layout (cfg : Config) (temperature : Vector Half 4) : ∃ t0 t1 t2 t3 : Half,
    replyGetTemp cfg temperature = [0x20, BitVec.ofNat 8 cfg.tempCount, t0.extractLsb' 8 8, t0.extractLsb' 0 8,
      t1.extractLsb' 8 8, t1.extractLsb' 0 8, t2.extractLsb' 8 8, t2.extractLsb' 0 8, t3.extractLsb' 8 8, t3.extractLsb' 0 8] ∧
    ∀ k : Fin 4, #v[t0, t1, t2, t3][k] = if k.val < cfg.tempCount then temperature[k] else 0 := by
  refine ⟨if 0 < cfg.tempCount then rdAt temperature 0 0 else 0, if 1 < cfg.tempCount then rdAt temperature 1 0 else 0,
    if 2 < cfg.tempCount then rdAt temperature 2 0 else 0, if 3 < cfg.tempCount then rdAt temperature 3 0 else 0, rfl, fun k => ?_⟩
  have hread : temperature[k] = rdAt temperature k.val 0 := (rdAt_of_lt _ k.isLt 0).symm
  rw [hread]
  match k with
  | 0 => rfl
  | 1 => rfl
  | 2 => rfl
  | 3 => rfl

/-- Settles O58: a poll serves the oldest record (`LoopTurn.poll`), and an operation's answer goes into its reply
(`exec_getrpm_data`, `exec_getpwm_data`, `exec_setpwm_status`). -/
theorem dispatchLoopAnswersEachRecord : Obligations.DispatchLoopAnswersEachRecord := by
  intro co sys sys' hinv hr h
  obtain ⟨a, b, turn⟩ := loopTurn_of_systemStep hr h
  have hrun := turn.run
  have hloop := turn.loop
  refine ⟨fun hl => ?_, fun hl => (turn.poll hinv hl).1, fun hl i rest hrecords => ?_, fun hl => ?_, fun r0 hl => ?_,
    fun channel hl => ?_, fun channel pwm hl => ?_⟩
  · rw [hloop, hl]
    rfl
  · have hserved : i.isRequest = true → ∃ o : Outputs,
        decodeRecord o.dpData = some i ∧ sys'.loop = serveRecord sys.block.cfg o co := fun hi =>
      (turn.poll hinv hl).2 i rest hi hrecords
    refine ⟨?_, ?_, ?_, ?_, ?_, ?_⟩
    · rintro rfl
      obtain ⟨o, hrec, hserve⟩ := hserved rfl
      obtain ⟨t0, t1, t2, t3, hlayout, hslots⟩ := replyGetTemp_layout sys.block.cfg co.temperature
      refine ⟨t0, t1, t2, t3, ?_, hslots⟩
      rw [hserve, serveRecord, hrec, ← hlayout]
      exact owes_sendWhenIdle o _
    · rintro rfl
      obtain ⟨o, hrec, hserve⟩ := hserved rfl
      rw [hserve, serveRecord, hrec]
    · rintro channel rfl
      obtain ⟨o, hrec, hserve⟩ := hserved rfl
      rw [hserve, serveRecord, hrec]
    · rintro channel pwm rfl
      obtain ⟨o, hrec, hserve⟩ := hserved rfl
      rw [hserve, serveRecord, hrec]
    · rintro addrH addrL rfl
      obtain ⟨o, hrec, hserve⟩ := hserved rfl
      rw [hserve, serveRecord, hrec]
      exact owes_sendWhenIdle o _
    · rintro addrH addrL value rfl
      obtain ⟨o, hrec, hserve⟩ := hserved rfl
      rw [hserve, serveRecord, hrec]
      have hreply : replyEeWriteByte co.writeOk = [if co.writeOk then 0x41 else 0xFF] := by
        unfold replyEeWriteByte
        split <;> rfl
      rw [← hreply]
      exact owes_sendWhenIdle o _
  · rw [hl] at hrun hloop
    have hanswer := exec_getrpm_data (c := 0) hrun
    rw [turn.rpmOf] at hanswer
    rw [hloop, LoopState.next, turn.data, hanswer]
  · rw [hl] at hrun hloop
    have hanswer := exec_getrpm_data (c := 1) hrun
    rw [turn.rpmOf] at hanswer
    rw [hloop, LoopState.next, turn.data, hanswer]
    exact owes_sendWhenIdle _ _
  · rw [hl] at hrun hloop
    have hanswer := exec_getpwm_data (by rw [turn.cfg, turn.pwm]; exact hinv.pwm) hrun
    rw [turn.cfg, turn.pwm, ← turn.data] at hanswer
    exact ⟨_, hloop ▸ owes_sendWhenIdle _ _, hanswer⟩
  · rw [hl] at hrun hloop
    have hanswer := exec_setpwm_status hrun
    rw [turn.cfg, ← turn.status] at hanswer
    have hreply : replySetFanPwm (decide (sys'.block.out.dpStatus = .ok)) =
        [if channel.toNat < sys.block.cfg.fanCount ∧ pwm.toNat ≤ 100 then 0x32 else 0xFF] := by
      simp only [replySetFanPwm, decide_eq_true_eq, hanswer]
      split <;> rfl
    rw [hloop, ← hreply]
    exact owes_sendWhenIdle _ _

end Sys2Proof.Machine
end

section
/-! Runs under R250's other agents (46_dispatch_contract.md, 70_reset_and_hazards.md R288): a fair UART ends every emission, and the
1 ms strobe makes the clock count milliseconds. -/

namespace Sys2Proof.Machine

open Sys2Proof.Claims Sys2Proof.Safety

/-! ## A fair UART -/

/-- The invariant holds all along a run that begins in it, whatever the environment does. -/
theorem IsRun.inv {env : Nat → Inputs} {run : Nat → State} (hrun : IsRun env run) (h : Inv (run 0)) (n : Nat) : Inv (run n) := by
  induction n with
  | zero => exact h
  | succ n ih =>
    obtain ⟨t, ht, hinv⟩ := stepGoesOnAndKeepsTheInvariant { run n with script := [env n] }
      (inv_of_registers ih rfl rfl rfl rfl ⟨rfl, rfl⟩ rfl)
    exact Host.Outcome.next.inj ((hrun n).symm.trans ht) ▸ hinv

/-- How many bytes of the frame being emitted are still to be taken. -/
def bytesLeft (t : Tx) : Nat := t.len.toNat - t.idx.toNat

/-- Between two steps that emit, a byte is offered, none comes back, and one goes if the UART is ready (R226). -/
theorem bytesLeft_step {s t : State} (h : Inv s) (hstep : step s = .next t) (hs : s.tx.state = .emit) (ht : t.tx.state = .emit) :
    t.out.txValid = true ∧ bytesLeft t.tx ≤ bytesLeft s.tx ∧ ((nextInputs s).txReady = true → bytesLeft t.tx < bytesLeft s.tx) := by
  cases hr : (nextInputs s).rst with
  | true =>
    rw [eq_resetPhase_of_step hr hstep] at ht
    cases ht
  | false =>
    obtain ⟨-, hlen, hvalid, -, hidx, -⟩ := nothingInterruptsAnEmission s t h hr hstep hs
    obtain ⟨-, -, hlt⟩ := h.tx.2.1 hs
    rw [bytesLeft, bytesLeft, hlen, hidx]
    refine ⟨hvalid, by omega, fun hready => ?_⟩
    rw [if_pos hready]
    omega

/-- An emission that never ended would take a byte again and again, as often as there are bytes left, and once more. -/
theorem emission_ends {env : Nat → Inputs} {run : Nat → State} (h : Inv (run 0)) (hrun : IsRun env run) (hfair : UartIsFair env run)
    (n : Nat) : ¬∀ m, n ≤ m → (run m).tx.state = .emit := by
  intro hemits
  have hsteps : ∀ m, n ≤ m → (run (m + 1)).out.txValid = true ∧ bytesLeft (run (m + 1)).tx ≤ bytesLeft (run m).tx ∧
      ((env m).txReady = true → bytesLeft (run (m + 1)).tx < bytesLeft (run m).tx) := fun m hm =>
    bytesLeft_step (s := { run m with script := [env m] }) (inv_of_registers (hrun.inv h m) rfl rfl rfl rfl ⟨rfl, rfl⟩ rfl)
      (hrun m) (hemits m hm) (hemits (m + 1) (Nat.le_succ_of_le hm))
  induction hleft : bytesLeft (run n).tx using Nat.strong_induction_on generalizing n with
  | _ left ih =>
    have hnoneBack : ∀ m, n ≤ m → bytesLeft (run m).tx ≤ bytesLeft (run n).tx := fun m hm =>
      Nat.le_induction (le_refl _) (fun m hm ih => (hsteps m hm).2.1.trans ih) m hm
    obtain ⟨m, hm, hready⟩ := hfair n (hsteps n (le_refl n)).1
    have hless := ((hsteps m hm).2.2 hready).trans_le (hnoneBack m hm)
    have hlater : n ≤ m + 1 := Nat.le_succ_of_le hm
    exact ih _ (hleft ▸ hless) (m + 1) (fun k hk => hemits k (hlater.trans hk)) (fun k hk => hsteps k (hlater.trans hk)) rfl

/-- Settles O59: `emission_ends` says that the run leaves the emission at some later state. -/
theorem fairUartEndsEveryEmission : Obligations.FairUartEndsEveryEmission := by
  intro env run h hrun hfair n hn
  by_contra hforever
  refine emission_ends h hrun hfair n fun m hm => ?_
  rcases Nat.eq_or_lt_of_le hm with rfl | hlt
  · exact hn
  · exact not_not.mp fun hend => hforever ⟨m, hlt, hend⟩

/-! ## The tick -/

/-- Over a stretch without reset, with its one tick in step `n + k`, the clock counts one from the step after the tick on. -/
theorem msClock_over_stretch {env : Nat → Inputs} {run : Nat → State} (hrun : IsRun env run) {n k length : Nat}
    (hreset : ∀ j, j < length → (env (n + j)).rst = false) (htick : (env (n + k)).tick1ms = true)
    (hone : ∀ j, j < length → (env (n + j)).tick1ms = true → j = k) :
    ∀ j, j ≤ length → (run (n + j)).msClock = if k < j then (run n).msClock + 1 else (run n).msClock := by
  intro j
  induction j with
  | zero => exact fun _ => rfl
  | succ j ih =>
    intro hj
    have hstep : (run (n + j + 1)).msClock = if (env (n + j)).tick1ms then (run (n + j)).msClock + 1 else (run (n + j)).msClock :=
      step_msClock (s := { run (n + j) with script := [env (n + j)] }) (hreset j hj) (hrun (n + j))
    rw [← Nat.add_assoc, hstep, ih (by omega)]
    by_cases hjk : j = k
    · rw [hjk, if_pos htick, if_neg (Nat.lt_irrefl k), if_pos (Nat.lt_succ_self k)]
    · rw [if_neg (fun ht => hjk (hone j hj ht))]
      simp only [show k < j ↔ k < j + 1 by omega]

/-- Settles O60: the stretch has one tick, before its end. -/
theorem tickRateMakesTheClockCountMilliseconds : Obligations.TickRateMakesTheClockCountMilliseconds := by
  intro env run hrun hticks n hreset
  obtain ⟨k, hk, htick, hone⟩ := hticks n
  rw [msClock_over_stretch hrun hreset htick hone _ (le_refl _), if_pos hk]

end Sys2Proof.Machine
end
